-- ==== Sys2Proof/Word.lean ====
section
/-! DEFINITION. The word types of MIPS-C (R6): a general register, `HI`, `LO`, `PC`, a CP0 register and a
data address are 32 bits; memory is addressed by 8-bit bytes; the register fields of an encoding are 5 bits
and the immediate and offset fields 16. Bit 0 is the least significant bit everywhere (R8). -/

namespace Sys2Proof

/-- 32 bits: a register, an address, an instruction word (R6). -/
abbrev Word := BitVec 32

/-- 16 bits: a halfword of memory, or the immediate field of an I-format instruction (R6, R82). -/
abbrev Half := BitVec 16

/-- 8 bits: the addressable unit of memory (R6). -/
abbrev Byte := BitVec 8

/-- A 5-bit register number: of a general register (R20) or of a CP0 register (R29). -/
abbrev Reg := BitVec 5

end Sys2Proof
end

