-- ==== Sys2Proof/Syntax.lean ====
section
/-! DEFINITION. The syntax of MIPS-C: the 55 instructions of R2, one constructor each, in the order of
spec/opcode_table.json. Operands stand in the order of the assembler formats of R98, each with the width of
the field that encodes it (R81 to R86), so that no operand value outside its field can be written. Beside it,
the mnemonics and the assembly line of R98 and R99, whose operands are still plain numbers. -/

namespace Sys2Proof

/-- An instruction of MIPS-C (R2): the closed list of 55. -/
inductive Instr where
  /-- SLL, shift left logical (R140). -/
  | sll (rd rt : Reg) (s : BitVec 5)
  /-- SRL, shift right logical (R141). -/
  | srl (rd rt : Reg) (s : BitVec 5)
  /-- SRA, shift right arithmetic (R142). -/
  | sra (rd rt : Reg) (s : BitVec 5)
  /-- SLLV, shift left logical variable (R143). -/
  | sllv (rd rt rs : Reg)
  /-- SRLV, shift right logical variable (R144). -/
  | srlv (rd rt rs : Reg)
  /-- SRAV, shift right arithmetic variable (R145). -/
  | srav (rd rt rs : Reg)
  /-- JR, jump register (R183). -/
  | jr (rs : Reg)
  /-- JALR, jump and link register (R182). -/
  | jalr (rd rs : Reg)
  /-- SYSCALL, system call (R211). -/
  | syscall (code : BitVec 20)
  /-- BREAK, breakpoint (R210). -/
  | brk (code : BitVec 20)
  /-- MFHI, move from HI (R190). -/
  | mfhi (rd : Reg)
  /-- MTHI, move to HI (R192). -/
  | mthi (rs : Reg)
  /-- MFLO, move from LO (R191). -/
  | mflo (rd : Reg)
  /-- MTLO, move to LO (R193). -/
  | mtlo (rs : Reg)
  /-- MULT, signed multiply (R134). -/
  | mult (rs rt : Reg)
  /-- MULTU, unsigned multiply (R135). -/
  | multu (rs rt : Reg)
  /-- DIV, signed divide (R136). -/
  | div (rs rt : Reg)
  /-- DIVU, unsigned divide (R137). -/
  | divu (rs rt : Reg)
  /-- ADD, signed add, traps on overflow (R130). -/
  | add (rd rs rt : Reg)
  /-- ADDU, add without overflow trap (R131). -/
  | addu (rd rs rt : Reg)
  /-- SUB, signed subtract, traps on overflow (R132). -/
  | sub (rd rs rt : Reg)
  /-- SUBU, subtract without overflow trap (R133). -/
  | subu (rd rs rt : Reg)
  /-- AND, bitwise and (R146). -/
  | and (rd rs rt : Reg)
  /-- OR, bitwise or (R147). -/
  | or (rd rs rt : Reg)
  /-- XOR, bitwise exclusive or (R148). -/
  | xor (rd rs rt : Reg)
  /-- NOR, bitwise nor (R149). -/
  | nor (rd rs rt : Reg)
  /-- SLT, set on less than, signed (R138). -/
  | slt (rd rs rt : Reg)
  /-- SLTU, set on less than, unsigned (R139). -/
  | sltu (rd rs rt : Reg)
  /-- BLTZ, branch on less than zero (R174). -/
  | bltz (rs : Reg) (offset : Half)
  /-- BGEZ, branch on greater than or equal to zero (R175). -/
  | bgez (rs : Reg) (offset : Half)
  /-- J, jump (R180). -/
  | j (index : BitVec 26)
  /-- JAL, jump and link (R181). -/
  | jal (index : BitVec 26)
  /-- BEQ, branch on equal (R170). -/
  | beq (rs rt : Reg) (offset : Half)
  /-- BNE, branch on not equal (R171). -/
  | bne (rs rt : Reg) (offset : Half)
  /-- BLEZ, branch on less than or equal to zero (R172). -/
  | blez (rs : Reg) (offset : Half)
  /-- BGTZ, branch on greater than zero (R173). -/
  | bgtz (rs : Reg) (offset : Half)
  /-- ADDI, signed add immediate, traps on overflow (R160). -/
  | addi (rt rs : Reg) (imm : Half)
  /-- ADDIU, add immediate without overflow trap (R161). -/
  | addiu (rt rs : Reg) (imm : Half)
  /-- SLTI, set on less than immediate, signed (R166). -/
  | slti (rt rs : Reg) (imm : Half)
  /-- SLTIU, set on less than immediate, unsigned (R167). -/
  | sltiu (rt rs : Reg) (imm : Half)
  /-- ANDI, and immediate (R162). -/
  | andi (rt rs : Reg) (imm : Half)
  /-- ORI, or immediate (R163). -/
  | ori (rt rs : Reg) (imm : Half)
  /-- XORI, exclusive-or immediate (R164). -/
  | xori (rt rs : Reg) (imm : Half)
  /-- LUI, load upper immediate (R165). -/
  | lui (rt : Reg) (imm : Half)
  /-- MFC0, move from coprocessor 0 (R201). -/
  | mfc0 (rt rd : Reg)
  /-- MTC0, move to coprocessor 0 (R202). -/
  | mtc0 (rt rd : Reg)
  /-- ERET, exception return (R200). -/
  | eret
  /-- LB, load byte, sign-extended (R110). -/
  | lb (rt : Reg) (offset : Half) (base : Reg)
  /-- LH, load halfword, sign-extended (R112). -/
  | lh (rt : Reg) (offset : Half) (base : Reg)
  /-- LW, load word (R114). -/
  | lw (rt : Reg) (offset : Half) (base : Reg)
  /-- LBU, load byte, zero-extended (R111). -/
  | lbu (rt : Reg) (offset : Half) (base : Reg)
  /-- LHU, load halfword, zero-extended (R113). -/
  | lhu (rt : Reg) (offset : Half) (base : Reg)
  /-- SB, store byte (R120). -/
  | sb (rt : Reg) (offset : Half) (base : Reg)
  /-- SH, store halfword (R121). -/
  | sh (rt : Reg) (offset : Half) (base : Reg)
  /-- SW, store word (R122). -/
  | sw (rt : Reg) (offset : Half) (base : Reg)
deriving DecidableEq, Repr

/-- The 55 mnemonics (R2). -/
inductive Mnemonic where
  | sll | srl | sra | sllv | srlv | srav | jr | jalr | syscall
  | brk | mfhi | mthi | mflo | mtlo | mult | multu | div | divu
  | add | addu | sub | subu | and | or | xor | nor | slt
  | sltu | bltz | bgez | j | jal | beq | bne | blez | bgtz
  | addi | addiu | slti | sltiu | andi | ori | xori | lui | mfc0
  | mtc0 | eret | lb | lh | lw | lbu | lhu | sb | sh
  | sw
deriving DecidableEq, Repr

/-- The mnemonic of an instruction. -/
def Instr.mnemonic : Instr → Mnemonic
  | .sll _ _ _ => .sll
  | .srl _ _ _ => .srl
  | .sra _ _ _ => .sra
  | .sllv _ _ _ => .sllv
  | .srlv _ _ _ => .srlv
  | .srav _ _ _ => .srav
  | .jr _ => .jr
  | .jalr _ _ => .jalr
  | .syscall _ => .syscall
  | .brk _ => .brk
  | .mfhi _ => .mfhi
  | .mthi _ => .mthi
  | .mflo _ => .mflo
  | .mtlo _ => .mtlo
  | .mult _ _ => .mult
  | .multu _ _ => .multu
  | .div _ _ => .div
  | .divu _ _ => .divu
  | .add _ _ _ => .add
  | .addu _ _ _ => .addu
  | .sub _ _ _ => .sub
  | .subu _ _ _ => .subu
  | .and _ _ _ => .and
  | .or _ _ _ => .or
  | .xor _ _ _ => .xor
  | .nor _ _ _ => .nor
  | .slt _ _ _ => .slt
  | .sltu _ _ _ => .sltu
  | .bltz _ _ => .bltz
  | .bgez _ _ => .bgez
  | .j _ => .j
  | .jal _ => .jal
  | .beq _ _ _ => .beq
  | .bne _ _ _ => .bne
  | .blez _ _ => .blez
  | .bgtz _ _ => .bgtz
  | .addi _ _ _ => .addi
  | .addiu _ _ _ => .addiu
  | .slti _ _ _ => .slti
  | .sltiu _ _ _ => .sltiu
  | .andi _ _ _ => .andi
  | .ori _ _ _ => .ori
  | .xori _ _ _ => .xori
  | .lui _ _ => .lui
  | .mfc0 _ _ => .mfc0
  | .mtc0 _ _ => .mtc0
  | .eret => .eret
  | .lb _ _ _ => .lb
  | .lh _ _ _ => .lh
  | .lw _ _ _ => .lw
  | .lbu _ _ _ => .lbu
  | .lhu _ _ _ => .lhu
  | .sb _ _ _ => .sb
  | .sh _ _ _ => .sh
  | .sw _ _ _ => .sw

/-- A register as an assembly line writes it (R98): by one of the o32 names of R22, or as `$` and a number,
which the line may write out of range. -/
inductive RegText where
  /-- `$name`: a general register by its o32 name. -/
  | named (r : Reg)
  /-- `$n`: a general or a CP0 register by its number. -/
  | numbered (n : Nat)
deriving DecidableEq, Repr

/-- An operand of an assembly line (R98): a register, a number, or `offset(base)`. -/
inductive Operand where
  | reg (r : RegText)
  | imm (v : Int)
  | mem (offset : Int) (base : RegText)
deriving DecidableEq, Repr

/-- A line of assembly before it is checked (R98): the mnemonic and its operands in the order written. -/
structure AsmLine where
  mnemonic : Mnemonic
  operands : List Operand
deriving DecidableEq, Repr

end Sys2Proof
end

