-- ==== Sys2Proof/WellFormed.lean ====
section
/-! DEFINITION. Well-formedness. Every operand of an `Instr` has the type of the field that encodes it, so an
`Instr` is well formed by construction and needs no check. Two things can be ill formed and are checked here:
an instruction WORD, against the opcode table (R93 to R96), and a line of ASSEMBLY, whose operands are still
plain numbers (R98, R99). -/

namespace Sys2Proof

/-- A row of the opcode table (R93): the words `w` with `w AND mask = match` are the row's instruction. -/
structure OpcodeRow where
  mnemonic : Mnemonic
  mask : Word
  pattern : Word
deriving DecidableEq, Repr

/-- Does a word match a row of the table (R93)? -/
def OpcodeRow.matchesWord (r : OpcodeRow) (w : Word) : Bool := w &&& r.mask == r.pattern

/-- Rows of the opcode table: primary opcode 000000 (R91, R92). -/
def specialRows : List OpcodeRow :=
  [ ⟨.sll, 0xFFE0003F#32, 0x00000000#32⟩,
    ⟨.srl, 0xFFE0003F#32, 0x00000002#32⟩,
    ⟨.sra, 0xFFE0003F#32, 0x00000003#32⟩,
    ⟨.sllv, 0xFC0007FF#32, 0x00000004#32⟩,
    ⟨.srlv, 0xFC0007FF#32, 0x00000006#32⟩,
    ⟨.srav, 0xFC0007FF#32, 0x00000007#32⟩,
    ⟨.jr, 0xFC1FFFFF#32, 0x00000008#32⟩,
    ⟨.jalr, 0xFC1F07FF#32, 0x00000009#32⟩,
    ⟨.syscall, 0xFC00003F#32, 0x0000000C#32⟩,
    ⟨.brk, 0xFC00003F#32, 0x0000000D#32⟩,
    ⟨.mfhi, 0xFFFF07FF#32, 0x00000010#32⟩,
    ⟨.mthi, 0xFC1FFFFF#32, 0x00000011#32⟩,
    ⟨.mflo, 0xFFFF07FF#32, 0x00000012#32⟩,
    ⟨.mtlo, 0xFC1FFFFF#32, 0x00000013#32⟩,
    ⟨.mult, 0xFC00FFFF#32, 0x00000018#32⟩,
    ⟨.multu, 0xFC00FFFF#32, 0x00000019#32⟩,
    ⟨.div, 0xFC00FFFF#32, 0x0000001A#32⟩,
    ⟨.divu, 0xFC00FFFF#32, 0x0000001B#32⟩,
    ⟨.add, 0xFC0007FF#32, 0x00000020#32⟩,
    ⟨.addu, 0xFC0007FF#32, 0x00000021#32⟩,
    ⟨.sub, 0xFC0007FF#32, 0x00000022#32⟩,
    ⟨.subu, 0xFC0007FF#32, 0x00000023#32⟩,
    ⟨.and, 0xFC0007FF#32, 0x00000024#32⟩,
    ⟨.or, 0xFC0007FF#32, 0x00000025#32⟩,
    ⟨.xor, 0xFC0007FF#32, 0x00000026#32⟩,
    ⟨.nor, 0xFC0007FF#32, 0x00000027#32⟩,
    ⟨.slt, 0xFC0007FF#32, 0x0000002A#32⟩,
    ⟨.sltu, 0xFC0007FF#32, 0x0000002B#32⟩ ]

/-- Rows of the opcode table: the branches and jumps with a primary opcode of their own, and opcode 000001 (R91, R94). -/
def branchJumpRows : List OpcodeRow :=
  [ ⟨.bltz, 0xFC1F0000#32, 0x04000000#32⟩,
    ⟨.bgez, 0xFC1F0000#32, 0x04010000#32⟩,
    ⟨.j, 0xFC000000#32, 0x08000000#32⟩,
    ⟨.jal, 0xFC000000#32, 0x0C000000#32⟩,
    ⟨.beq, 0xFC000000#32, 0x10000000#32⟩,
    ⟨.bne, 0xFC000000#32, 0x14000000#32⟩,
    ⟨.blez, 0xFC1F0000#32, 0x18000000#32⟩,
    ⟨.bgtz, 0xFC1F0000#32, 0x1C000000#32⟩ ]

/-- Rows of the opcode table: register-immediate arithmetic (R91). -/
def immediateRows : List OpcodeRow :=
  [ ⟨.addi, 0xFC000000#32, 0x20000000#32⟩,
    ⟨.addiu, 0xFC000000#32, 0x24000000#32⟩,
    ⟨.slti, 0xFC000000#32, 0x28000000#32⟩,
    ⟨.sltiu, 0xFC000000#32, 0x2C000000#32⟩,
    ⟨.andi, 0xFC000000#32, 0x30000000#32⟩,
    ⟨.ori, 0xFC000000#32, 0x34000000#32⟩,
    ⟨.xori, 0xFC000000#32, 0x38000000#32⟩,
    ⟨.lui, 0xFFE00000#32, 0x3C000000#32⟩ ]

/-- Rows of the opcode table: opcode 010000: MFC0, MTC0, ERET (R94). -/
def cop0Rows : List OpcodeRow :=
  [ ⟨.mfc0, 0xFFE007FF#32, 0x40000000#32⟩,
    ⟨.mtc0, 0xFFE007FF#32, 0x40800000#32⟩,
    ⟨.eret, 0xFFFFFFFF#32, 0x42000018#32⟩ ]

/-- Rows of the opcode table: loads and stores (R91). -/
def memoryRows : List OpcodeRow :=
  [ ⟨.lb, 0xFC000000#32, 0x80000000#32⟩,
    ⟨.lh, 0xFC000000#32, 0x84000000#32⟩,
    ⟨.lw, 0xFC000000#32, 0x8C000000#32⟩,
    ⟨.lbu, 0xFC000000#32, 0x90000000#32⟩,
    ⟨.lhu, 0xFC000000#32, 0x94000000#32⟩,
    ⟨.sb, 0xFC000000#32, 0xA0000000#32⟩,
    ⟨.sh, 0xFC000000#32, 0xA4000000#32⟩,
    ⟨.sw, 0xFC000000#32, 0xAC000000#32⟩ ]

/-- The opcode table: 55 rows, one per instruction (R93). -/
def opcodeTable : List OpcodeRow :=
  specialRows ++ branchJumpRows ++ immediateRows ++ cop0Rows ++ memoryRows

/-- Is a word an instruction of MIPS-C (R93, R96)? -/
def wordWellFormed (w : Word) : Bool := opcodeTable.any (·.matchesWord w)

/-- The operand list an instruction's assembler format asks for (R98). -/
inductive OperandShape where
  /-- three general registers: `add rd, rs, rt`, `sllv rd, rt, rs` -/
  | threeRegs
  /-- two general registers and a shift amount: `sll rd, rt, s` -/
  | twoRegsShamt
  /-- two general registers and a 16-bit value: `addi rt, rs, immediate`, `beq rs, rt, offset` -/
  | twoRegsImm
  /-- one general register and a 16-bit value: `lui rt, immediate`, `blez rs, offset` -/
  | oneRegImm
  /-- two general registers: `mult rs, rt`, `jalr rd, rs` -/
  | twoRegs
  /-- one general register: `jr rs`, `mfhi rd` -/
  | oneReg
  /-- a general register and a CP0 register: `mfc0 rt, rd` -/
  | regCp0
  /-- `rt, offset(base)` -/
  | regMem
  /-- the 26-bit `target` of `j` and `jal` -/
  | target
  /-- an optional 20-bit code: `break code`, `syscall code` -/
  | code
  /-- no operand: `eret` -/
  | noOperand
deriving DecidableEq, Repr

/-- The operand shape of each mnemonic (R98). -/
def Mnemonic.shape : Mnemonic → OperandShape
  | .sll | .srl | .sra => .twoRegsShamt
  | .sllv | .srlv | .srav | .add | .addu | .sub | .subu | .and | .or | .xor | .nor | .slt | .sltu => .threeRegs
  | .jr | .mfhi | .mthi | .mflo | .mtlo => .oneReg
  | .jalr | .mult | .multu | .div | .divu => .twoRegs
  | .syscall | .brk => .code
  | .bltz | .bgez | .blez | .bgtz | .lui => .oneRegImm
  | .j | .jal => .target
  | .beq | .bne | .addi | .addiu | .slti | .sltiu | .andi | .ori | .xori => .twoRegsImm
  | .mfc0 | .mtc0 => .regCp0
  | .eret => .noOperand
  | .lb | .lh | .lw | .lbu | .lhu | .sb | .sh | .sw => .regMem

/-- A register text names a general register: an o32 name, or a number in 0..31 (R22, R98). -/
def RegText.isGeneral : RegText → Bool
  | .named _ => true
  | .numbered n => n < 32

/-- A register text names a CP0 register: a number in 0..31 (R98: "a CP0 register is written `$number`"). -/
def RegText.isCp0 : RegText → Bool
  | .named _ => false
  | .numbered n => n < 32

/-- A 16-bit immediate or offset as assembly may write it: -32768..65535 (R99). -/
def immInRange (v : Int) : Bool := -32768 ≤ v && v ≤ 65535

/-- A value of an unsigned field of `n` bits. -/
def uintInRange (n : Nat) (v : Int) : Bool := 0 ≤ v && v < (2 : Int) ^ n

/-- Is a line of assembly one that this spec's assembler accepts (R98, R99)? -/
def AsmLine.wellFormed (l : AsmLine) : Bool :=
  match l.mnemonic.shape, l.operands with
  | .threeRegs, [.reg a, .reg b, .reg c] => a.isGeneral && b.isGeneral && c.isGeneral
  | .twoRegsShamt, [.reg a, .reg b, .imm s] => a.isGeneral && b.isGeneral && uintInRange 5 s
  | .twoRegsImm, [.reg a, .reg b, .imm v] => a.isGeneral && b.isGeneral && immInRange v
  | .oneRegImm, [.reg a, .imm v] => a.isGeneral && immInRange v
  | .twoRegs, [.reg a, .reg b] => a.isGeneral && b.isGeneral
  | .oneReg, [.reg a] => a.isGeneral
  | .regCp0, [.reg a, .reg c] => a.isGeneral && c.isCp0
  | .regMem, [.reg a, .mem o b] => a.isGeneral && b.isGeneral && immInRange o
  | .target, [.imm t] => uintInRange 26 t
  | .code, [] => true
  | .code, [.imm c] => uintInRange 20 c
  | .noOperand, [] => true
  | _, _ => false

end Sys2Proof
end

