-- ==== Sys2Proof/Decode.lean ====
section
/-! DEFINITION. Decoding (R80 to R96) and encoding. `decodeWord` is total on all 2^32 words and rejects by name;
it is written from the opcode map of R91, R92, R94 and the fixed zero fields of R95, field by field, and does
not read the mask and match columns of the table (WellFormed.lean). `encode` is written from the formats of
R81 to R86. An instruction is 32 bits; viewed as bytes the byte at the lowest address is bits 7..0 (R60). -/

namespace Sys2Proof

/-- Why a word (or a byte sequence) is no instruction (R96). -/
inductive DecodeReject where
  /-- A primary opcode that R91 does not list. -/
  | unknownOpcode (op : BitVec 6)
  /-- A function code under opcode 000000 that R92 does not list. -/
  | unknownFunct (funct : BitVec 6)
  /-- Bits 20..16 under opcode 000001 that select no instruction (R94). -/
  | unknownRegimm (sel : BitVec 5)
  /-- A word with opcode 010000 that is not MFC0, MTC0 or ERET by its selector (R94). -/
  | unknownCop0 (sel : BitVec 5)
  /-- The selectors of an instruction, with a one in a field its encoding fixes to zero (R95). -/
  | fixedFieldNotZero (m : Mnemonic)
  /-- Fewer than four bytes. -/
  | truncated (n : Nat)
deriving DecidableEq, Repr

/-- The outcome of decoding: an instruction, or a rejection by name. -/
inductive Decoded where
  | ok (i : Instr)
  | reject (r : DecodeReject)
deriving DecidableEq, Repr

/-! ### Fields of a word (R81 to R86) -/

/-- Bits 31..26. -/
def opcodeOf (w : Word) : BitVec 6 := w.extractLsb' 26 6
/-- Bits 25..21: `rs`, called `base` in loads and stores. -/
def rsOf (w : Word) : Reg := w.extractLsb' 21 5
/-- Bits 20..16. -/
def rtOf (w : Word) : Reg := w.extractLsb' 16 5
/-- Bits 15..11. -/
def rdOf (w : Word) : Reg := w.extractLsb' 11 5
/-- Bits 10..6: the shift amount `s`. -/
def shamtOf (w : Word) : BitVec 5 := w.extractLsb' 6 5
/-- Bits 5..0. -/
def functOf (w : Word) : BitVec 6 := w.extractLsb' 0 6
/-- Bits 15..0: `immediate` or `offset`. -/
def immOf (w : Word) : Half := w.extractLsb' 0 16
/-- Bits 25..0: `instr_index` (R83). -/
def indexOf (w : Word) : BitVec 26 := w.extractLsb' 0 26
/-- Bits 25..6: the `code` field of BREAK and SYSCALL (R85). -/
def codeOf (w : Word) : BitVec 20 := w.extractLsb' 6 20

/-- The instruction, if its fixed zero fields are zero (R95). -/
def ifZero (fixedZero : Bool) (i : Instr) : Decoded :=
  if fixedZero then .ok i else .reject (.fixedFieldNotZero i.mnemonic)

/-- Primary opcode 000000: the function code selects (R92), with the zero fields of R81 and R95. -/
def decodeSpecial (w : Word) : Decoded :=
  let f := functOf w
  let rs := rsOf w
  let rt := rtOf w
  let rd := rdOf w
  let s := shamtOf w
  if f = 0x00#6 then ifZero (rs == 0) (.sll rd rt s)
  else if f = 0x02#6 then ifZero (rs == 0) (.srl rd rt s)
  else if f = 0x03#6 then ifZero (rs == 0) (.sra rd rt s)
  else if f = 0x04#6 then ifZero (s == 0) (.sllv rd rt rs)
  else if f = 0x06#6 then ifZero (s == 0) (.srlv rd rt rs)
  else if f = 0x07#6 then ifZero (s == 0) (.srav rd rt rs)
  else if f = 0x08#6 then ifZero (rt == 0 && rd == 0 && s == 0) (.jr rs)
  else if f = 0x09#6 then ifZero (rt == 0 && s == 0) (.jalr rd rs)
  else if f = 0x0C#6 then .ok (.syscall (codeOf w))
  else if f = 0x0D#6 then .ok (.brk (codeOf w))
  else if f = 0x10#6 then ifZero (rs == 0 && rt == 0 && s == 0) (.mfhi rd)
  else if f = 0x11#6 then ifZero (rt == 0 && rd == 0 && s == 0) (.mthi rs)
  else if f = 0x12#6 then ifZero (rs == 0 && rt == 0 && s == 0) (.mflo rd)
  else if f = 0x13#6 then ifZero (rt == 0 && rd == 0 && s == 0) (.mtlo rs)
  else if f = 0x18#6 then ifZero (rd == 0 && s == 0) (.mult rs rt)
  else if f = 0x19#6 then ifZero (rd == 0 && s == 0) (.multu rs rt)
  else if f = 0x1A#6 then ifZero (rd == 0 && s == 0) (.div rs rt)
  else if f = 0x1B#6 then ifZero (rd == 0 && s == 0) (.divu rs rt)
  else if f = 0x20#6 then ifZero (s == 0) (.add rd rs rt)
  else if f = 0x21#6 then ifZero (s == 0) (.addu rd rs rt)
  else if f = 0x22#6 then ifZero (s == 0) (.sub rd rs rt)
  else if f = 0x23#6 then ifZero (s == 0) (.subu rd rs rt)
  else if f = 0x24#6 then ifZero (s == 0) (.and rd rs rt)
  else if f = 0x25#6 then ifZero (s == 0) (.or rd rs rt)
  else if f = 0x26#6 then ifZero (s == 0) (.xor rd rs rt)
  else if f = 0x27#6 then ifZero (s == 0) (.nor rd rs rt)
  else if f = 0x2A#6 then ifZero (s == 0) (.slt rd rs rt)
  else if f = 0x2B#6 then ifZero (s == 0) (.sltu rd rs rt)
  else .reject (.unknownFunct f)

/-- Primary opcode 000001: bits 20..16 select (R86, R94). -/
def decodeRegimm (w : Word) : Decoded :=
  if rtOf w = 0b00000#5 then .ok (.bltz (rsOf w) (immOf w))
  else if rtOf w = 0b00001#5 then .ok (.bgez (rsOf w) (immOf w))
  else .reject (.unknownRegimm (rtOf w))

/-- Primary opcode 010000: bits 25..21 select MFC0 and MTC0; ERET is the one word 0x42000018 (R84, R94). -/
def decodeCop0 (w : Word) : Decoded :=
  let low := w.extractLsb' 0 11
  if rsOf w = 0b00000#5 then ifZero (low == 0) (.mfc0 (rtOf w) (rdOf w))
  else if rsOf w = 0b00100#5 then ifZero (low == 0) (.mtc0 (rtOf w) (rdOf w))
  else if w = 0x42000018#32 then .ok .eret
  else .reject (.unknownCop0 (rsOf w))

/-- The decoder (R93): total on all words; the primary opcode selects (R91). -/
def decodeWord (w : Word) : Decoded :=
  let op := opcodeOf w
  let rs := rsOf w
  let rt := rtOf w
  let imm := immOf w
  if op = 0x00#6 then decodeSpecial w
  else if op = 0x01#6 then decodeRegimm w
  else if op = 0x10#6 then decodeCop0 w
  else if op = 0x02#6 then .ok (.j (indexOf w))
  else if op = 0x03#6 then .ok (.jal (indexOf w))
  else if op = 0x04#6 then .ok (.beq rs rt imm)
  else if op = 0x05#6 then .ok (.bne rs rt imm)
  else if op = 0x06#6 then ifZero (rt == 0) (.blez rs imm)
  else if op = 0x07#6 then ifZero (rt == 0) (.bgtz rs imm)
  else if op = 0x08#6 then .ok (.addi rt rs imm)
  else if op = 0x09#6 then .ok (.addiu rt rs imm)
  else if op = 0x0A#6 then .ok (.slti rt rs imm)
  else if op = 0x0B#6 then .ok (.sltiu rt rs imm)
  else if op = 0x0C#6 then .ok (.andi rt rs imm)
  else if op = 0x0D#6 then .ok (.ori rt rs imm)
  else if op = 0x0E#6 then .ok (.xori rt rs imm)
  else if op = 0x0F#6 then ifZero (rs == 0) (.lui rt imm)
  else if op = 0x20#6 then .ok (.lb rt imm rs)
  else if op = 0x21#6 then .ok (.lh rt imm rs)
  else if op = 0x23#6 then .ok (.lw rt imm rs)
  else if op = 0x24#6 then .ok (.lbu rt imm rs)
  else if op = 0x25#6 then .ok (.lhu rt imm rs)
  else if op = 0x28#6 then .ok (.sb rt imm rs)
  else if op = 0x29#6 then .ok (.sh rt imm rs)
  else if op = 0x2B#6 then .ok (.sw rt imm rs)
  else .reject (.unknownOpcode op)

/-! ### Words as bytes (R60, R52: the byte at the lowest address is bits 7..0) -/

/-- The word whose bytes, from the lowest address up, are `b0`, `b1`, `b2`, `b3`. -/
def wordOfBytes (b0 b1 b2 b3 : Byte) : Word := b3 ++ b2 ++ b1 ++ b0

/-- Byte `k` of a word, counted from the lowest address. -/
def byteOfWord (w : Word) (k : Nat) : Byte := w.extractLsb' (8 * k) 8

/-- The four bytes of a word, the lowest address first. -/
def bytesOfWord (w : Word) : List Byte :=
  [byteOfWord w 0, byteOfWord w 1, byteOfWord w 2, byteOfWord w 3]

/-- Decoding of any byte sequence: the first four bytes are the instruction (R80), fewer are rejected. -/
def decodeBytes : List Byte → Decoded
  | b0 :: b1 :: b2 :: b3 :: _ => decodeWord (wordOfBytes b0 b1 b2 b3)
  | bs => .reject (.truncated bs.length)

/-- The instruction the decoder reads from an instruction whose bits are `w`, numbered as
spec/opcode_table.json numbers them; bits from `nbits` up are zero. Laid out as memory holds it. -/
def decodeTableWord (nbits w : Nat) : Option Instr :=
  match decodeBytes (bytesOfWord (BitVec.ofNat 32 (w % 2 ^ nbits))) with
  | .ok i => some i
  | .reject _ => none

/-! ### Encoding (R81 to R86) -/

/-- R format (R81): opcode 000000, `rs`, `rt`, `rd`, shift amount, function code. -/
def encodeR (rs rt rd : Reg) (s : BitVec 5) (funct : BitVec 6) : Word := 0#6 ++ rs ++ rt ++ rd ++ s ++ funct

/-- I format (R82), and its REGIMM variant with a selector in bits 20..16 (R86). -/
def encodeI (op : BitVec 6) (rs rt : Reg) (imm : Half) : Word := op ++ rs ++ rt ++ imm

/-- J format (R83). -/
def encodeJ (op : BitVec 6) (index : BitVec 26) : Word := op ++ index

/-- Code format of the trap class (R85). -/
def encodeCode (code : BitVec 20) (funct : BitVec 6) : Word := 0#6 ++ code ++ funct

/-- COP0 register move (R84): opcode 010000, selector, `rt`, `rd`, eleven zero bits. -/
def encodeCop0 (sel rt rd : Reg) : Word := 0x10#6 ++ sel ++ rt ++ rd ++ 0#11

/-- The word of an instruction. -/
def encode : Instr → Word
  | .sll rd rt s => encodeR 0 rt rd s 0x00
  | .srl rd rt s => encodeR 0 rt rd s 0x02
  | .sra rd rt s => encodeR 0 rt rd s 0x03
  | .sllv rd rt rs => encodeR rs rt rd 0 0x04
  | .srlv rd rt rs => encodeR rs rt rd 0 0x06
  | .srav rd rt rs => encodeR rs rt rd 0 0x07
  | .jr rs => encodeR rs 0 0 0 0x08
  | .jalr rd rs => encodeR rs 0 rd 0 0x09
  | .syscall code => encodeCode code 0x0C
  | .brk code => encodeCode code 0x0D
  | .mfhi rd => encodeR 0 0 rd 0 0x10
  | .mthi rs => encodeR rs 0 0 0 0x11
  | .mflo rd => encodeR 0 0 rd 0 0x12
  | .mtlo rs => encodeR rs 0 0 0 0x13
  | .mult rs rt => encodeR rs rt 0 0 0x18
  | .multu rs rt => encodeR rs rt 0 0 0x19
  | .div rs rt => encodeR rs rt 0 0 0x1A
  | .divu rs rt => encodeR rs rt 0 0 0x1B
  | .add rd rs rt => encodeR rs rt rd 0 0x20
  | .addu rd rs rt => encodeR rs rt rd 0 0x21
  | .sub rd rs rt => encodeR rs rt rd 0 0x22
  | .subu rd rs rt => encodeR rs rt rd 0 0x23
  | .and rd rs rt => encodeR rs rt rd 0 0x24
  | .or rd rs rt => encodeR rs rt rd 0 0x25
  | .xor rd rs rt => encodeR rs rt rd 0 0x26
  | .nor rd rs rt => encodeR rs rt rd 0 0x27
  | .slt rd rs rt => encodeR rs rt rd 0 0x2A
  | .sltu rd rs rt => encodeR rs rt rd 0 0x2B
  | .bltz rs offset => encodeI 0x01 rs 0b00000 offset
  | .bgez rs offset => encodeI 0x01 rs 0b00001 offset
  | .j index => encodeJ 0x02 index
  | .jal index => encodeJ 0x03 index
  | .beq rs rt offset => encodeI 0x04 rs rt offset
  | .bne rs rt offset => encodeI 0x05 rs rt offset
  | .blez rs offset => encodeI 0x06 rs 0 offset
  | .bgtz rs offset => encodeI 0x07 rs 0 offset
  | .addi rt rs imm => encodeI 0x08 rs rt imm
  | .addiu rt rs imm => encodeI 0x09 rs rt imm
  | .slti rt rs imm => encodeI 0x0A rs rt imm
  | .sltiu rt rs imm => encodeI 0x0B rs rt imm
  | .andi rt rs imm => encodeI 0x0C rs rt imm
  | .ori rt rs imm => encodeI 0x0D rs rt imm
  | .xori rt rs imm => encodeI 0x0E rs rt imm
  | .lui rt imm => encodeI 0x0F 0 rt imm
  | .mfc0 rt rd => encodeCop0 0b00000 rt rd
  | .mtc0 rt rd => encodeCop0 0b00100 rt rd
  | .eret => 0x42000018
  | .lb rt offset base => encodeI 0x20 base rt offset
  | .lh rt offset base => encodeI 0x21 base rt offset
  | .lw rt offset base => encodeI 0x23 base rt offset
  | .lbu rt offset base => encodeI 0x24 base rt offset
  | .lhu rt offset base => encodeI 0x25 base rt offset
  | .sb rt offset base => encodeI 0x28 base rt offset
  | .sh rt offset base => encodeI 0x29 base rt offset
  | .sw rt offset base => encodeI 0x2B base rt offset

end Sys2Proof
end

