-- ==== Sys2Proof/Config.lean ====
section
/-! DEFINITION. The configuration: the parameters that the source leaves open (R7, and
spec/92_eei_decisions.md, "The open parameters, collected"), and the free values.

What is plain data is a field of `Config`; the machine state carries one `Config` (log 1) and no step changes
it, so a statement about every state is a statement about every value of these parameters. What is a function
is an `opaque` constant with no body: nothing in Lean can evaluate it, so a claim holds for every such function.
`HALT` is an argument of `runTo` in Safety.lean. -/

namespace Sys2Proof

/-- A memory: (address, byte) pairs in one canonical form, addresses strictly rising (`Memory.wf`). An address
that is not listed holds no byte. -/
abbrev Memory := List Host.Cell

/-- The CP0 register file (R29): 32 cells of 32 bits. -/
abbrev Cp0File := Vector Word 32

/-- The direction of a data access, which an address error carries (R220). -/
inductive AccessKind where
  | load
  | store
deriving DecidableEq, Repr

/-- The four exceptions of R220, with the information each carries. -/
inductive Exc where
  /-- Signed overflow in ADD, ADDI, SUB (R221). -/
  | integerOverflow
  /-- A misaligned halfword or word access at effective address `addr` (R222). -/
  | addressError (kind : AccessKind) (addr : Word)
  /-- BREAK (R223). -/
  | breakpoint
  /-- SYSCALL (R224). -/
  | syscall
deriving DecidableEq, Repr

/-- `FAULT_EPC_OFFSET` (R227, D11): 0 or 4, no other value. -/
inductive FaultEpcOffset where
  | zero
  | four
deriving DecidableEq, Repr

/-- The pair `Cp0OnEntry`, `Cp0OnReturn` (R228, R230, D10), as plain data: `m32` is the spec's default
instantiation, `identity` the machine that records nothing (R228: "also a legal instantiation"), `unspecified` any
other pair, given by the uninterpreted constants below. -/
inductive Cp0Policy where
  | m32
  | identity
  | unspecified
deriving DecidableEq, Repr

/-- A run of consecutive data words: those at `base`, `base + 4`, …, `base + 4 * (words - 1)` (R59). -/
structure Region where
  base : Word
  words : Nat
deriving DecidableEq, Repr

/-- The configuration of a machine (R7, R36). -/
structure Config where
  /-- `EXC_VECTOR`: the one exception handler address (R226, D8). -/
  excVector : Word
  /-- `RESET_PC`: the value of `pc` after reset (R261, D15). -/
  resetPc : Word
  /-- `EPC_IDX`: the CP0 number of `EPC` (R30, D9). -/
  epcIdx : Reg
  /-- `FAULT_EPC_OFFSET` (R227, D11). -/
  faultEpcOffset : FaultEpcOffset
  /-- `Cp0OnEntry` and `Cp0OnReturn` (R228, R230, D10). -/
  cp0Policy : Cp0Policy
  /-- `IMEM`: the program text, as bytes, each word's byte at the lowest address being its bits 7..0 (R60). -/
  imem : Memory
  /-- `DMEM`: the data words that loads and stores may touch (R59), a union of regions. -/
  dmemMap : List Region
deriving DecidableEq, Repr

/-- `DivSpecial(signed?, x[rs], x[rt])` (R152, D17): the pair (HI, LO) that DIV and DIVU leave for a divisor of
zero, and DIV for -2^31 / -1. Free: "an open configuration function of which the model may assume nothing". -/
opaque Config.divSpecial : Bool → Word → Word → Word × Word

/-- `Cp0OnEntry(cp0, E, info, pc)` under the policy `unspecified` (R228): a free function of its arguments. -/
opaque Config.cp0OnEntryOpen : Cp0File → Exc → Word → Cp0File

/-- `Cp0OnReturn(cp0)` under the policy `unspecified` (R230): a free function of its argument. -/
opaque Config.cp0OnReturnOpen : Cp0File → Cp0File

/-- What a load finds in a data byte that nothing has written (R35: "any 32-bit value chosen freshly at each
such read"): a free value for each draw number and address. -/
opaque Config.freeByte : Nat → Nat → Byte

end Sys2Proof
end

