-- ==== Sys2Proof/Machine/State.lean ====
section
/-! DEFINITION. The machine's state (R36), its faults (R231, R232) and refusals, and the state after reset
(R35, R260). -/

namespace Sys2Proof.Machine

/-- The machine state: the tuple `(x[1..31], hi, lo, pc, cp0[0..31], dmem)` of R36, with the configuration
(R7, carried so that statements range over it, log 1) and the model's own counter of free draws (log 5). -/
structure State where
  /-- `x[1]`..`x[31]`; `x[i]` stands at index `i - 1`. `x[0]` is the constant 0 and is not state (R21, R36). -/
  gpr : Vector Word 31
  /-- `HI` (R27). -/
  hi : Word
  /-- `LO` (R27). -/
  lo : Word
  /-- `PC`: the address of the next instruction to execute (R24). -/
  pc : Word
  /-- `cp0[0]`..`cp0[31]`, plain storage (R29). -/
  cp0 : Cp0File
  /-- The data memory over `DMEM` (R32): the bytes that a store or the launch has written. -/
  dmem : Memory
  /-- The configuration; no step changes it (R7, R33, R65). -/
  cfg : Config
  /-- The model's own: how many loads so far met a byte that nothing had written. It indexes
  `Config.freeByte`. -/
  draws : Nat
deriving DecidableEq, Repr

/-- The model faults of R232: the source gives the event no behaviour, so there is no next state. -/
inductive Fault where
  /-- The fetched word matches no row of the opcode table (R96). Raised by `step`. Safe: the chip may do
  something, the model claims nothing. -/
  | illegalInstruction (pc word : Word)
  /-- A step begins with `pc` not a multiple of 4 (R26, R60). Raised by `step`. Safe. -/
  | misalignedFetch (pc : Word)
  /-- A step begins with `pc` aligned and not in `IMEM` (R60). Raised by `step`. Safe. -/
  | fetchUnmapped (pc : Word)
  /-- A correctly aligned load or store whose word is not in `DMEM` (R59). Raised by the eight loads and
  stores. Safe. -/
  | unmappedAccess (addr : Word)
deriving DecidableEq, Repr

/-- Refusals: the model does not accept something. -/
inductive Refusal where
  /-- An instruction that has no meaning yet. Raised by no arm of `exec`: all 55 are modelled. Safe. -/
  | notModelled (mnemonic : String)
  /-- A configuration or launch value that breaks the constraints of 92_eei_decisions.md (R59, U13). Raised by
  `launch`, never by a step. Safe. -/
  | badConfiguration
deriving DecidableEq, Repr

/-- The outcome of one step or of one instruction. -/
abbrev Result := Host.Outcome State Fault Refusal

/-- The configuration `State.reset` carries: the spec's test configuration T, with no program (log 3, log 4).
DESIGN CHOICE, unsafe: T "has no authority from the source". -/
def resetConfig : Config where
  excVector := 0x00004180
  resetPc := 0x00003000
  epcIdx := 14
  faultEpcOffset := .zero
  cp0Policy := .m32
  imem := []
  dmemMap := [⟨0x00000000, 0xC00⟩]

/-- The state after reset under a configuration (R35, R260): `pc = RESET_PC`, memory with nothing written. The
source gives no value for any other register; each holds 0 (log 2: DESIGN CHOICE, unsafe). -/
def State.resetWith (cfg : Config) : State where
  gpr := Vector.replicate 31 0
  hi := 0
  lo := 0
  pc := cfg.resetPc
  cp0 := Vector.replicate 32 0
  dmem := []
  cfg := cfg
  draws := 0

/-- The machine right after reset (R35, R260). -/
def State.reset : State := State.resetWith resetConfig

end Sys2Proof.Machine
end

