-- ==== Sys2Proof/Machine/Ops.lean ====
section
/-! DEFINITION. The shared operations: register access (R21), CP0 access (R29), memory access (R51 to R59),
taking an exception and returning from one (R226 to R230), and fetch (R60). -/

namespace Sys2Proof

/-! ### Memory as data (R32, R51, R59) -/

/-- The byte listed at an address, if there is one. -/
def Memory.read : Memory → Nat → Option Byte
  | [], _ => none
  | (a, b) :: m, k => if k = a then some b else Memory.read m k

/-- Store a byte; the list keeps its canonical form. -/
def Memory.write : Memory → Nat → Byte → Memory
  | [], k, v => [(k, v)]
  | (a, b) :: m, k, v =>
    if k < a then (k, v) :: (a, b) :: m
    else if k = a then (k, v) :: m
    else (a, b) :: Memory.write m k v

/-- The canonical form: addresses strictly rising. -/
def Memory.wf : Memory → Bool
  | [] => true
  | [_] => true
  | c :: d :: m => decide (c.1 < d.1) && Memory.wf (d :: m)

/-- Store bytes at consecutive addresses, the first at `k`. -/
def Memory.writeBytes (m : Memory) (k : Nat) : List Byte → Memory
  | [] => m
  | b :: bs => Memory.writeBytes (Memory.write m k b) (k + 1) bs

/-- `addr[31:2] ++ 0b00`: the address of the aligned word that contains a byte (R51, R55). -/
def containingWord (addr : Word) : Word := addr.extractLsb' 2 30 ++ 0#2

/-- A region holds the word at an address. -/
def Region.holds (r : Region) (wa : Word) : Bool :=
  decide (r.base.toNat ≤ wa.toNat) && decide (wa.toNat < r.base.toNat + 4 * r.words)

/-- Is the word that contains `addr` in `DMEM` (R55, R59)? -/
def Config.mapsData (cfg : Config) (addr : Word) : Bool := cfg.dmemMap.any (·.holds (containingWord addr))

end Sys2Proof

namespace Sys2Proof.Machine

/-! ### Registers -/

/-- `x[r]` (R12, R21): `x[0]` reads as 0. -/
def State.readReg (s : State) (r : Reg) : Word :=
  if r = 0#5 then 0#32 else s.gpr[r.toNat - 1]'(by have := r.isLt; omega)

/-- `x[r] <- v` (R12, R21): a write to `x[0]` has no effect. -/
def State.writeReg (s : State) (r : Reg) (v : Word) : State :=
  { s with gpr := if r = 0#5 then s.gpr else s.gpr.set (r.toNat - 1) v (by have := r.isLt; omega) }

/-- `hi <- v` (R27). -/
def State.setHi (s : State) (v : Word) : State := { s with hi := v }

/-- `lo <- v` (R27). -/
def State.setLo (s : State) (v : Word) : State := { s with lo := v }

/-- `pc <- v` (R24). -/
def State.setPc (s : State) (v : Word) : State := { s with pc := v }

/-- `pc <- pc + 4`, modulo 2^32 (R25). -/
def State.advance (s : State) : State := s.setPc (s.pc + 4#32)

/-- The CP0 file becomes `f`. -/
def State.setCp0 (s : State) (f : Cp0File) : State := { s with cp0 := f }

/-- The data memory becomes `m`. -/
def State.setDmem (s : State) (m : Memory) : State := { s with dmem := m }

/-- The cell of a CP0 file with number `i` (R29). -/
def cp0Cell (f : Cp0File) (i : Reg) : Word := f[i.toNat]'(i.isLt)

/-- The CP0 file with cell `i` replaced (R29). -/
def cp0Put (f : Cp0File) (i : Reg) (v : Word) : Cp0File := f.set i.toNat v i.isLt

/-- `cp0[i]` (R29): plain storage, every cell readable. -/
def State.readCp0 (s : State) (i : Reg) : Word := cp0Cell s.cp0 i

/-- `cp0[i] <- v` (R29): all 32 bits, no cell read-only. -/
def State.writeCp0 (s : State) (i : Reg) (v : Word) : State := s.setCp0 (cp0Put s.cp0 i v)

/-- `epc`, that is `cp0[EPC_IDX]` (R30). -/
def State.epc (s : State) : Word := s.readCp0 s.cfg.epcIdx

/-- The instruction's effect is `x[rd] <- v`, then `pc <- pc + 4`. -/
def finishReg (rd : Reg) (v : Word) (s : State) : Result := .next (s.writeReg rd v).advance

/-- The instruction's effect is `hi`, `lo` and `pc <- pc + 4`. -/
def finishHiLo (hi lo : Word) (s : State) : Result := .next ((s.setHi hi).setLo lo).advance

/-! ### Exceptions (R226 to R230) -/

/-- Bits `lo + n - 1 .. lo` of `w` replaced by `v`. -/
def putField {n : Nat} (w : Word) (lo : Nat) (v : BitVec n) : Word :=
  (w &&& ~~~((BitVec.allOnes n).setWidth 32 <<< lo)) ||| (v.setWidth 32 <<< lo)

/-- The cause code that M32 records (R225). -/
def excCode : Exc → BitVec 5
  | .addressError .load _ => 4#5
  | .addressError .store _ => 5#5
  | .syscall => 8#5
  | .breakpoint => 9#5
  | .integerOverflow => 12#5

/-- `M32.Cp0OnEntry` (R228): ExcCode in `cp0[13][6:2]`, BD `cp0[13][31]` cleared, EXL `cp0[12][1]` set, and
on an address error the address in `cp0[8]`. -/
def m32OnEntry (cp0 : Cp0File) (e : Exc) : Cp0File :=
  let cp0 := cp0Put cp0 13#5 (putField (putField (cp0Cell cp0 13#5) 2 (excCode e)) 31 0#1)
  let cp0 := cp0Put cp0 12#5 (putField (cp0Cell cp0 12#5) 1 1#1)
  match e with
  | .addressError _ addr => cp0Put cp0 8#5 addr
  | _ => cp0

/-- `M32.Cp0OnReturn` (R230): EXL `cp0[12][1]` cleared, nothing else. -/
def m32OnReturn (cp0 : Cp0File) : Cp0File := cp0Put cp0 12#5 (putField (cp0Cell cp0 12#5) 1 0#1)

/-- `Cp0OnEntry(cp0, E, info, pc)` (R228), as the configuration has it. -/
def cp0OnEntry (cfg : Config) (cp0 : Cp0File) (e : Exc) (pc : Word) : Cp0File :=
  match cfg.cp0Policy with
  | .m32 => m32OnEntry cp0 e
  | .identity => cp0
  | .unspecified => Config.cp0OnEntryOpen cp0 e pc

/-- `Cp0OnReturn(cp0)` (R230), as the configuration has it; it "may not change `cp0[EPC_IDX]`", so that cell is
put back whatever the processing did (log 8). -/
def cp0OnReturn (cfg : Config) (cp0 : Cp0File) : Cp0File :=
  let processed := match cfg.cp0Policy with
    | .m32 => m32OnReturn cp0
    | .identity => cp0
    | .unspecified => Config.cp0OnReturnOpen cp0
  cp0Put processed cfg.epcIdx (cp0Cell cp0 cfg.epcIdx)

/-- The number that `FAULT_EPC_OFFSET` stands for (R227). -/
def faultOffset : FaultEpcOffset → Word
  | .zero => 0#32
  | .four => 4#32

/-- `EpcValue(E, pc)` (R227): `pc + 4` for the two traps, `pc + FAULT_EPC_OFFSET` for the two faults. -/
def epcValue (cfg : Config) (e : Exc) (pc : Word) : Word :=
  match e with
  | .breakpoint => pc + 4#32
  | .syscall => pc + 4#32
  | .integerOverflow => pc + faultOffset cfg.faultEpcOffset
  | .addressError _ _ => pc + faultOffset cfg.faultEpcOffset

/-- `raise E(info)` (R226): what every exception does to the state before the step. -/
def raise (e : Exc) (s : State) : State :=
  let v := epcValue s.cfg e s.pc
  let s' := s.setCp0 (cp0OnEntry s.cfg s.cp0 e s.pc)
  (s'.writeCp0 s.cfg.epcIdx v).setPc s.cfg.excVector

/-- The return from an exception, ERET (R200, R230): `epc` is read first, then the other CP0 processing, then
`pc <- epc`. -/
def exceptionReturn (s : State) : State := (s.setCp0 (cp0OnReturn s.cfg s.cp0)).setPc s.epc

/-! ### Memory (R51 to R59) -/

/-- `Addr[0] = 0` (R54). -/
def aligned2 (addr : Word) : Bool := addr.extractLsb' 0 1 == 0#1

/-- `Addr[1:0] = 00` (R54). -/
def aligned4 (addr : Word) : Bool := addr.extractLsb' 0 2 == 0#2

/-- The data byte at an address: the one written last, or a free value where nothing has written (R35,
log 5). -/
def State.dataByte (s : State) (a : Nat) : Byte :=
  match Memory.read s.dmem a with
  | some b => b
  | none => Config.freeByte s.draws a

/-- Has each of the `n` data bytes from address `a` on been written? -/
def State.allWritten (s : State) (a : Nat) : Nat → Bool
  | 0 => true
  | n + 1 => (Memory.read s.dmem a).isSome && s.allWritten (a + 1) n

/-- After a read of `n` bytes: if one of them was unwritten, the next draw is a fresh one (R35). -/
def State.afterRead (s : State) (a n : Nat) : State :=
  if s.allWritten a n then s else { s with draws := s.draws + 1 }

/-- `MemRead(addr, 1)` on mapped memory (R55). -/
def State.readData8 (s : State) (addr : Word) : Byte := s.dataByte addr.toNat

/-- `MemRead(addr, 2)` on mapped memory, little-endian (R52, R55). -/
def State.readData16 (s : State) (addr : Word) : Half := s.dataByte (addr.toNat + 1) ++ s.dataByte addr.toNat

/-- `MemRead(addr, 4)` on mapped memory, little-endian (R52, R55). -/
def State.readData32 (s : State) (addr : Word) : Word :=
  wordOfBytes (s.dataByte addr.toNat) (s.dataByte (addr.toNat + 1)) (s.dataByte (addr.toNat + 2))
    (s.dataByte (addr.toNat + 3))

/-- The end of a load of `n` bytes whose value is `v` (R55, R59): UnmappedAccess outside `DMEM`, else
`x[rt] <- v` and `pc <- pc + 4`. -/
def finishLoad (rt : Reg) (addr : Word) (n : Nat) (v : Word) (s : State) : Result :=
  if s.cfg.mapsData addr then .next ((s.afterRead addr.toNat n).writeReg rt v).advance
  else .fault (.unmappedAccess addr)

/-- `MemWrite(addr, n, v)` for the bytes of `v`, lowest address first, and `pc <- pc + 4` (R56, R59);
UnmappedAccess outside `DMEM`. -/
def finishStore (addr : Word) (bytes : List Byte) (s : State) : Result :=
  if s.cfg.mapsData addr then .next (s.setDmem (Memory.writeBytes s.dmem addr.toNat bytes)).advance
  else .fault (.unmappedAccess addr)

/-- The access, if the address is aligned; else AddressError and nothing else (R54, R57). -/
def ifAligned (aligned : Bool) (kind : AccessKind) (addr : Word) (access : Result) (s : State) : Result :=
  if aligned then access else .next (raise (.addressError kind addr) s)

/-! ### Fetch and decode (R13, R60, R93, R233) -/

/-- The four bytes of the instruction word at `pc` in `IMEM`, if all are there (R60). -/
def textBytes (imem : Memory) (a : Nat) : Option (List Byte) :=
  match Memory.read imem a, Memory.read imem (a + 1), Memory.read imem (a + 2), Memory.read imem (a + 3) with
  | some b0, some b1, some b2, some b3 => some [b0, b1, b2, b3]
  | _, _, _, _ => none

/-- The word that a byte list lays out, for the fault that names it. -/
def wordOf : List Byte → Word
  | [b0, b1, b2, b3] => wordOfBytes b0 b1 b2 b3
  | _ => 0

/-- Fetch and decode at `pc`, in the order of R233: MisalignedFetch, FetchUnmapped, IllegalInstruction. -/
def fetchDecode (s : State) : Except Fault Instr :=
  if aligned4 s.pc then
    match textBytes s.cfg.imem s.pc.toNat with
    | none => .error (.fetchUnmapped s.pc)
    | some bytes =>
      match decodeBytes bytes with
      | .ok i => .ok i
      | .reject _ => .error (.illegalInstruction s.pc (wordOf bytes))
  else .error (.misalignedFetch s.pc)

/-- Place an instruction word where the next fetch reads: the four bytes of `IMEM` at `pc` (R60). -/
def putText (s : State) (w : Word) : State :=
  { s with cfg := { s.cfg with imem := Memory.writeBytes s.cfg.imem s.pc.toNat (bytesOfWord w) } }

end Sys2Proof.Machine
end

