-- ==== Sys2Proof/Machine/Flags.lean ====
section
/-! DEFINITION. Conditions. MIPS-C has no status flags (R28): a comparison delivers its result to a register or
is consumed by the branch that makes it, and signed overflow raises an exception. These are the tests that the
instructions make. -/

namespace Sys2Proof.Machine

/-- `v[31] ++ v`: a register widened by a copy of its sign (R9, R130). -/
def widen (v : Word) : BitVec 33 := v.signExtend 33

/-- The 33-bit sum of ADD (R130). -/
def addTemp (a b : Word) : BitVec 33 := widen a + widen b

/-- The 33-bit difference of SUB (R132). -/
def subTemp (a b : Word) : BitVec 33 := widen a - widen b

/-- The 33-bit sum of ADDI, with `sext_33(immediate)` (R160). -/
def addImmTemp (a : Word) (imm : Half) : BitVec 33 := widen a + imm.signExtend 33

/-- `temp[32] ≠ temp[31]` (R130, R150, R221). -/
def overflowed (temp : BitVec 33) : Bool := temp.getLsbD 32 != temp.getLsbD 31

/-- `signed(a) < signed(b)` (R9, R138). -/
def lessSigned (a b : Word) : Bool := decide (a.toInt < b.toInt)

/-- `unsigned(a) < unsigned(b)` (R9, R139). -/
def lessUnsigned (a b : Word) : Bool := decide (a.toNat < b.toNat)

/-- 1 if the condition holds, else 0 (R138). -/
def setWord (c : Bool) : Word := if c then 1#32 else 0#32

/-- The end of an instruction that traps on signed overflow (R130, R132, R160, R221): IntegerOverflow and no
register written, or `x[rd] <- temp[31:0]` and `pc <- pc + 4`. -/
def finishOrOverflow (rd : Reg) (temp : BitVec 33) (s : State) : Result :=
  if overflowed temp then .next (raise .integerOverflow s) else finishReg rd (temp.extractLsb' 0 32) s

end Sys2Proof.Machine
end

