-- ==== Sys2Proof/Machine/Operands.lean ====
section
/-! DEFINITION. How operands are formed: the immediates (R87), the effective address (R66), branch and jump
targets (R88, R89), the variable shift amount (R90, R143). -/

namespace Sys2Proof.Machine

/-- `sext_32` of a 16-bit immediate or offset (R11, R87). -/
def signExtImm (imm : Half) : Word := imm.signExtend 32

/-- `zext_32` of a 16-bit immediate (R11, R87). -/
def zeroExtImm (imm : Half) : Word := imm.zeroExtend 32

/-- `immediate ++ rep(0, 16)`: the operand of LUI (R87, R165). -/
def upperImm (imm : Half) : Word := imm ++ 0#16

/-- `Addr = (x[base] + sext_32(offset)) mod 2^32` (R66). -/
def effAddr (base : Reg) (offset : Half) (s : State) : Word := s.readReg base + signExtImm offset

/-- `pc + 4 + sext_32(offset ++ 0b00)`, modulo 2^32 (R88). -/
def branchTarget (pc : Word) (offset : Half) : Word := pc + 4#32 + (offset ++ 0#2).signExtend 32

/-- `JumpAddr = (pc + 4)[31:28] ++ instr_index ++ 0b00` (R89, R180). -/
def jumpAddr (pc : Word) (index : BitVec 26) : Word := (pc + 4#32).extractLsb' 28 4 ++ index ++ 0#2

/-- `v = x[rs][4:0]`, the amount of SLLV, SRLV, SRAV (R143). -/
def varShamt (rs : Reg) (s : State) : BitVec 5 := (s.readReg rs).extractLsb' 0 5

/-- `v[31-s : 0] ++ rep(0, s)` (R140). -/
def shiftLeft (v : Word) (s : BitVec 5) : Word := v <<< s.toNat

/-- `rep(0, s) ++ v[31 : s]` (R141). -/
def shiftRightLogical (v : Word) (s : BitVec 5) : Word := v >>> s.toNat

/-- `rep(v[31], s) ++ v[31 : s]` (R142). -/
def shiftRightArith (v : Word) (s : BitVec 5) : Word := v.sshiftRight s.toNat

/-- The 64-bit product of MULT (R134, R151): the exact signed product, modulo 2^64. -/
def signedProduct (a b : Word) : BitVec 64 := BitVec.ofInt 64 (a.toInt * b.toInt)

/-- The 64-bit product of MULTU (R135, R151). -/
def unsignedProduct (a b : Word) : BitVec 64 := BitVec.ofNat 64 (a.toNat * b.toNat)

/-- The pair (HI, LO) of DIV (R136, R152): quotient rounded toward zero in LO, remainder in HI; `DivSpecial`
for a divisor of zero and for -2^31 / -1. -/
def signedDivision (a b : Word) : Word × Word :=
  if b.toInt = 0 ∨ (a.toInt = -2147483648 ∧ b.toInt = -1) then Config.divSpecial true a b
  else
    let q := Int.tdiv a.toInt b.toInt
    (BitVec.ofInt 32 (a.toInt - q * b.toInt), BitVec.ofInt 32 q)

/-- The pair (HI, LO) of DIVU (R137, R152); `DivSpecial` for a divisor of zero. -/
def unsignedDivision (a b : Word) : Word × Word :=
  if b.toNat = 0 then Config.divSpecial false a b
  else
    let q := a.toNat / b.toNat
    (BitVec.ofNat 32 (a.toNat - q * b.toNat), BitVec.ofNat 32 q)

end Sys2Proof.Machine
end

