-- ==== Sys2Proof/Machine/Branch.lean ====
section
/-! DEFINITION. The branch instructions (44_branch.md, R170 to R175). -/

namespace Sys2Proof.Machine

/-- A branch (R170 to R175): to the target if the condition holds, else to the next instruction. No delay slot
(R265). -/
def branch (taken : Bool) (offset : Half) (s : State) : Result :=
  .next (if taken then s.setPc (branchTarget s.pc offset) else s.advance)

/-- BEQ (R170). -/
def execBeq (rs rt : Reg) (offset : Half) (s : State) : Result :=
  branch (s.readReg rs == s.readReg rt) offset s

/-- BNE (R171). -/
def execBne (rs rt : Reg) (offset : Half) (s : State) : Result :=
  branch (s.readReg rs != s.readReg rt) offset s

/-- BLEZ (R172): signed comparison with zero. -/
def execBlez (rs : Reg) (offset : Half) (s : State) : Result :=
  branch (decide ((s.readReg rs).toInt ≤ 0)) offset s

/-- BGTZ (R173). -/
def execBgtz (rs : Reg) (offset : Half) (s : State) : Result :=
  branch (decide (0 < (s.readReg rs).toInt)) offset s

/-- BLTZ (R174). -/
def execBltz (rs : Reg) (offset : Half) (s : State) : Result :=
  branch (decide ((s.readReg rs).toInt < 0)) offset s

/-- BGEZ (R175). -/
def execBgez (rs : Reg) (offset : Half) (s : State) : Result :=
  branch (decide (0 ≤ (s.readReg rs).toInt)) offset s


end Sys2Proof.Machine
end

