-- ==== Sys2Proof/Machine/Jump.lean ====
section
/-! DEFINITION. The jump instructions (45_jump.md, R180 to R183). No delay slot (R265). -/

namespace Sys2Proof.Machine

/-- J (R180). -/
def execJ (index : BitVec 26) (s : State) : Result :=
  .next (s.setPc (jumpAddr s.pc index))

/-- JAL (R181): the link is `pc + 4`, in register 31. -/
def execJal (index : BitVec 26) (s : State) : Result :=
  .next ((s.writeReg 31#5 (s.pc + 4#32)).setPc (jumpAddr s.pc index))

/-- JALR (R182): the target is read before the link is written. -/
def execJalr (rd rs : Reg) (s : State) : Result :=
  .next ((s.writeReg rd (s.pc + 4#32)).setPc (s.readReg rs))

/-- JR (R183): any value is copied. -/
def execJr (rs : Reg) (s : State) : Result :=
  .next (s.setPc (s.readReg rs))


end Sys2Proof.Machine
end

