-- ==== Sys2Proof/Machine/Load.lean ====
section
/-! DEFINITION. The load instructions LB, LBU, LH, LHU, LW (40_load.md, R110 to R114). -/

namespace Sys2Proof.Machine

/-- LB (R110). -/
def execLb (rt : Reg) (offset : Half) (base : Reg) (s : State) : Result :=
  let addr := effAddr base offset s
  finishLoad rt addr 1 ((s.readData8 addr).signExtend 32) s

/-- LBU (R111). -/
def execLbu (rt : Reg) (offset : Half) (base : Reg) (s : State) : Result :=
  let addr := effAddr base offset s
  finishLoad rt addr 1 ((s.readData8 addr).zeroExtend 32) s

/-- LH (R112). -/
def execLh (rt : Reg) (offset : Half) (base : Reg) (s : State) : Result :=
  let addr := effAddr base offset s
  ifAligned (aligned2 addr) .load addr (finishLoad rt addr 2 ((s.readData16 addr).signExtend 32) s) s

/-- LHU (R113). -/
def execLhu (rt : Reg) (offset : Half) (base : Reg) (s : State) : Result :=
  let addr := effAddr base offset s
  ifAligned (aligned2 addr) .load addr (finishLoad rt addr 2 ((s.readData16 addr).zeroExtend 32) s) s

/-- LW (R114). -/
def execLw (rt : Reg) (offset : Half) (base : Reg) (s : State) : Result :=
  let addr := effAddr base offset s
  ifAligned (aligned4 addr) .load addr (finishLoad rt addr 4 (s.readData32 addr) s) s


end Sys2Proof.Machine
end

