-- ==== Sys2Proof/Machine/Move.lean ====
section
/-! DEFINITION. The move instructions (46_move.md, R190 to R193). -/

namespace Sys2Proof.Machine

/-- MFHI (R190). -/
def execMfhi (rd : Reg) (s : State) : Result :=
  finishReg rd s.hi s

/-- MFLO (R191). -/
def execMflo (rd : Reg) (s : State) : Result :=
  finishReg rd s.lo s

/-- MTHI (R192): LO is not changed. -/
def execMthi (rs : Reg) (s : State) : Result :=
  .next (s.setHi (s.readReg rs)).advance

/-- MTLO (R193): HI is not changed. -/
def execMtlo (rs : Reg) (s : State) : Result :=
  .next (s.setLo (s.readReg rs)).advance


end Sys2Proof.Machine
end

