-- ==== Sys2Proof/Machine/Privileged.lean ====
section
/-! DEFINITION. The privileged class (47_privileged.md, R200 to R202). There is one mode (R238): the three run at all times. -/

namespace Sys2Proof.Machine

/-- ERET (R200): no check, in any mode or at any time (R235, R238). -/
def execEret (s : State) : Result :=
  .next (exceptionReturn s)

/-- MFC0 (R201): `rt` is the general, `rd` the CP0 register. -/
def execMfc0 (rt rd : Reg) (s : State) : Result :=
  finishReg rt (s.readCp0 rd) s

/-- MTC0 (R202): all 32 bits, every cell. -/
def execMtc0 (rt rd : Reg) (s : State) : Result :=
  .next (s.writeCp0 rd (s.readReg rt)).advance


end Sys2Proof.Machine
end

