-- ==== Sys2Proof/Machine/RiArith.lean ====
section
/-! DEFINITION. Register-immediate arithmetic (43_ri_arith.md, R160 to R167). -/

namespace Sys2Proof.Machine

/-- ADDI (R160). -/
def execAddi (rt rs : Reg) (imm : Half) (s : State) : Result :=
  finishOrOverflow rt (addImmTemp (s.readReg rs) imm) s

/-- ADDIU (R161). -/
def execAddiu (rt rs : Reg) (imm : Half) (s : State) : Result :=
  finishReg rt (s.readReg rs + signExtImm imm) s

/-- ANDI (R162). -/
def execAndi (rt rs : Reg) (imm : Half) (s : State) : Result :=
  finishReg rt (s.readReg rs &&& zeroExtImm imm) s

/-- ORI (R163). -/
def execOri (rt rs : Reg) (imm : Half) (s : State) : Result :=
  finishReg rt (s.readReg rs ||| zeroExtImm imm) s

/-- XORI (R164). -/
def execXori (rt rs : Reg) (imm : Half) (s : State) : Result :=
  finishReg rt (s.readReg rs ^^^ zeroExtImm imm) s

/-- LUI (R165). -/
def execLui (rt : Reg) (imm : Half) (s : State) : Result :=
  finishReg rt (upperImm imm) s

/-- SLTI (R166). -/
def execSlti (rt rs : Reg) (imm : Half) (s : State) : Result :=
  finishReg rt (setWord (lessSigned (s.readReg rs) (signExtImm imm))) s

/-- SLTIU (R167): the immediate is sign-extended, then read as unsigned. -/
def execSltiu (rt rs : Reg) (imm : Half) (s : State) : Result :=
  finishReg rt (setWord (lessUnsigned (s.readReg rs) (signExtImm imm))) s


end Sys2Proof.Machine
end

