-- ==== Sys2Proof/Machine/RrArith.lean ====
section
/-! DEFINITION. Register-register arithmetic (42_rr_arith.md, R130 to R152). -/

namespace Sys2Proof.Machine

/-- ADD (R130). -/
def execAdd (rd rs rt : Reg) (s : State) : Result :=
  finishOrOverflow rd (addTemp (s.readReg rs) (s.readReg rt)) s

/-- ADDU (R131). -/
def execAddu (rd rs rt : Reg) (s : State) : Result :=
  finishReg rd (s.readReg rs + s.readReg rt) s

/-- SUB (R132). -/
def execSub (rd rs rt : Reg) (s : State) : Result :=
  finishOrOverflow rd (subTemp (s.readReg rs) (s.readReg rt)) s

/-- SUBU (R133). -/
def execSubu (rd rs rt : Reg) (s : State) : Result :=
  finishReg rd (s.readReg rs - s.readReg rt) s

/-- MULT (R134): HI the upper, LO the lower 32 bits of the signed product. -/
def execMult (rs rt : Reg) (s : State) : Result :=
  let p := signedProduct (s.readReg rs) (s.readReg rt)
  finishHiLo (p.extractLsb' 32 32) (p.extractLsb' 0 32) s

/-- MULTU (R135): HI the upper, LO the lower 32 bits of the unsigned product. -/
def execMultu (rs rt : Reg) (s : State) : Result :=
  let p := unsignedProduct (s.readReg rs) (s.readReg rt)
  finishHiLo (p.extractLsb' 32 32) (p.extractLsb' 0 32) s

/-- DIV (R136): LO the quotient, HI the remainder; no exception. -/
def execDiv (rs rt : Reg) (s : State) : Result :=
  let r := signedDivision (s.readReg rs) (s.readReg rt)
  finishHiLo r.1 r.2 s

/-- DIVU (R137): LO the quotient, HI the remainder; no exception. -/
def execDivu (rs rt : Reg) (s : State) : Result :=
  let r := unsignedDivision (s.readReg rs) (s.readReg rt)
  finishHiLo r.1 r.2 s

/-- SLT (R138). -/
def execSlt (rd rs rt : Reg) (s : State) : Result :=
  finishReg rd (setWord (lessSigned (s.readReg rs) (s.readReg rt))) s

/-- SLTU (R139). -/
def execSltu (rd rs rt : Reg) (s : State) : Result :=
  finishReg rd (setWord (lessUnsigned (s.readReg rs) (s.readReg rt))) s

/-- SLL (R140). -/
def execSll (rd rt : Reg) (sa : BitVec 5) (s : State) : Result :=
  finishReg rd (shiftLeft (s.readReg rt) sa) s

/-- SRL (R141). -/
def execSrl (rd rt : Reg) (sa : BitVec 5) (s : State) : Result :=
  finishReg rd (shiftRightLogical (s.readReg rt) sa) s

/-- SRA (R142). -/
def execSra (rd rt : Reg) (sa : BitVec 5) (s : State) : Result :=
  finishReg rd (shiftRightArith (s.readReg rt) sa) s

/-- SLLV (R143). -/
def execSllv (rd rt rs : Reg) (s : State) : Result :=
  finishReg rd (shiftLeft (s.readReg rt) (varShamt rs s)) s

/-- SRLV (R144). -/
def execSrlv (rd rt rs : Reg) (s : State) : Result :=
  finishReg rd (shiftRightLogical (s.readReg rt) (varShamt rs s)) s

/-- SRAV (R145). -/
def execSrav (rd rt rs : Reg) (s : State) : Result :=
  finishReg rd (shiftRightArith (s.readReg rt) (varShamt rs s)) s

/-- AND (R146). -/
def execAnd (rd rs rt : Reg) (s : State) : Result :=
  finishReg rd (s.readReg rs &&& s.readReg rt) s

/-- OR (R147). -/
def execOr (rd rs rt : Reg) (s : State) : Result :=
  finishReg rd (s.readReg rs ||| s.readReg rt) s

/-- XOR (R148). -/
def execXor (rd rs rt : Reg) (s : State) : Result :=
  finishReg rd (s.readReg rs ^^^ s.readReg rt) s

/-- NOR (R149). -/
def execNor (rd rs rt : Reg) (s : State) : Result :=
  finishReg rd (~~~(s.readReg rs ||| s.readReg rt)) s


end Sys2Proof.Machine
end

