-- ==== Sys2Proof/Machine/Store.lean ====
section
/-! DEFINITION. The store instructions SB, SH, SW (41_store.md, R120 to R122). -/

namespace Sys2Proof.Machine

/-- SB (R120): bits 7..0 of `x[rt]`. -/
def execSb (rt : Reg) (offset : Half) (base : Reg) (s : State) : Result :=
  let addr := effAddr base offset s
  finishStore addr [byteOfWord (s.readReg rt) 0] s

/-- SH (R121): bits 15..0 of `x[rt]`, the low byte at the lower address. -/
def execSh (rt : Reg) (offset : Half) (base : Reg) (s : State) : Result :=
  let addr := effAddr base offset s
  let v := s.readReg rt
  ifAligned (aligned2 addr) .store addr (finishStore addr [byteOfWord v 0, byteOfWord v 1] s) s

/-- SW (R122): the whole word. -/
def execSw (rt : Reg) (offset : Half) (base : Reg) (s : State) : Result :=
  let addr := effAddr base offset s
  ifAligned (aligned4 addr) .store addr (finishStore addr (bytesOfWord (s.readReg rt)) s) s


end Sys2Proof.Machine
end

