-- ==== Sys2Proof/Machine/Trap.lean ====
section
/-! DEFINITION. The trap instructions (48_trap.md, R210, R211). -/

namespace Sys2Proof.Machine

/-- BREAK (R210): Breakpoint, always; the code is not interpreted. -/
def execBrk (_code : BitVec 20) (s : State) : Result :=
  .next (raise .breakpoint s)

/-- SYSCALL (R211): Syscall, always; the code is not interpreted. -/
def execSyscall (_code : BitVec 20) (s : State) : Result :=
  .next (raise .syscall s)


end Sys2Proof.Machine
end

