-- ==== Sys2Proof/Machine/Step.lean ====
section
/-! DEFINITION. The step (R13): fetch, decode, execute. Everything it does is in Machine/Ops.lean and the
meanings; this file only calls them. -/

namespace Sys2Proof.Machine

/-- One step: the instruction at `pc`, wholly (R13); a fetch or decode that fails is a model fault, in the order
of R233. -/
def step (s : State) : Host.Outcome State Fault Refusal :=
  match fetchDecode s with
  | .error f => .fault f
  | .ok i => exec i s

/-- `s` with the instruction whose bits are `w` (bits from `nbits` up zero) stored in the program text at `pc`,
where `step` fetches next. It stands for loading the program from outside (log 4). -/
def State.withFetchWord (s : State) (nbits w : Nat) : State := putText s (BitVec.ofNat 32 (w % 2 ^ nbits))

end Sys2Proof.Machine
end

