-- ==== Sys2Proof/Machine/Assembler.lean ====
section
/-! DEFINITION. The assembler of R98, R99 and R22: from a line of text, through an `AsmLine`, to an `Instr`. It is
not part of a step (the hardware executes words); it says which instruction the spec's assembly text stands for.
An out-of-range operand is refused (R99, U18). -/

namespace Sys2Proof

/-! ### From operands to fields -/

/-- The general register a text names (R22). -/
def regField : RegText → Option Reg
  | .named r => some r
  | .numbered n => if n < 32 then some (BitVec.ofNat 5 n) else none

/-- The CP0 register a text names (R98). -/
def cp0Field : RegText → Option Reg
  | .named _ => none
  | .numbered n => if n < 32 then some (BitVec.ofNat 5 n) else none

/-- The 16-bit field of an immediate or offset: -32768..65535, modulo 2^16 (R99). -/
def immField (v : Int) : Option Half := if -32768 ≤ v ∧ v ≤ 65535 then some (BitVec.ofInt 16 v) else none

/-- An unsigned field of `n` bits. -/
def uintField (n : Nat) (v : Int) : Option (BitVec n) :=
  if 0 ≤ v ∧ v < (2 : Int) ^ n then some (BitVec.ofInt n v) else none

/-- The instructions written with three registers, in the order written (R98). -/
def threeRegInstr : Mnemonic → Option (Reg → Reg → Reg → Instr)
  | .sllv => some .sllv
  | .srlv => some .srlv
  | .srav => some .srav
  | .add => some .add
  | .addu => some .addu
  | .sub => some .sub
  | .subu => some .subu
  | .and => some .and
  | .or => some .or
  | .xor => some .xor
  | .nor => some .nor
  | .slt => some .slt
  | .sltu => some .sltu
  | _ => none

/-- The shifts by a constant (R98). -/
def shamtInstr : Mnemonic → Option (Reg → Reg → BitVec 5 → Instr)
  | .sll => some .sll
  | .srl => some .srl
  | .sra => some .sra
  | _ => none

/-- The instructions written with two registers and a 16-bit value (R98). -/
def twoRegImmInstr : Mnemonic → Option (Reg → Reg → Half → Instr)
  | .beq => some .beq
  | .bne => some .bne
  | .addi => some .addi
  | .addiu => some .addiu
  | .slti => some .slti
  | .sltiu => some .sltiu
  | .andi => some .andi
  | .ori => some .ori
  | .xori => some .xori
  | _ => none

/-- The instructions written with one register and a 16-bit value (R98). -/
def oneRegImmInstr : Mnemonic → Option (Reg → Half → Instr)
  | .bltz => some .bltz
  | .bgez => some .bgez
  | .blez => some .blez
  | .bgtz => some .bgtz
  | .lui => some .lui
  | _ => none

/-- The instructions written with two registers (R98). -/
def twoRegInstr : Mnemonic → Option (Reg → Reg → Instr)
  | .jalr => some .jalr
  | .mult => some .mult
  | .multu => some .multu
  | .div => some .div
  | .divu => some .divu
  | _ => none

/-- The instructions written with one register (R98). -/
def oneRegInstr : Mnemonic → Option (Reg → Instr)
  | .jr => some .jr
  | .mfhi => some .mfhi
  | .mthi => some .mthi
  | .mflo => some .mflo
  | .mtlo => some .mtlo
  | _ => none

/-- The moves to and from CP0 (R98). -/
def cp0Instr : Mnemonic → Option (Reg → Reg → Instr)
  | .mfc0 => some .mfc0
  | .mtc0 => some .mtc0
  | _ => none

/-- The loads and stores (R98). -/
def memInstr : Mnemonic → Option (Reg → Half → Reg → Instr)
  | .lb => some .lb
  | .lh => some .lh
  | .lw => some .lw
  | .lbu => some .lbu
  | .lhu => some .lhu
  | .sb => some .sb
  | .sh => some .sh
  | .sw => some .sw
  | _ => none

/-- J and JAL; the `target` operand is the 26-bit field value (R99). -/
def targetInstr : Mnemonic → Option (BitVec 26 → Instr)
  | .j => some .j
  | .jal => some .jal
  | _ => none

/-- The traps; the code is optional, 0 when omitted (R98). -/
def codeInstr : Mnemonic → Option (BitVec 20 → Instr)
  | .syscall => some .syscall
  | .brk => some .brk
  | _ => none

/-- The instruction of a line (R98, R99), or nothing where the assembler refuses it. -/
def assemble (l : AsmLine) : Option Instr :=
  match l.mnemonic.shape, l.operands with
  | .threeRegs, [.reg a, .reg b, .reg c] => do
    (← threeRegInstr l.mnemonic) (← regField a) (← regField b) (← regField c)
  | .twoRegsShamt, [.reg a, .reg b, .imm s] => do
    (← shamtInstr l.mnemonic) (← regField a) (← regField b) (← uintField 5 s)
  | .twoRegsImm, [.reg a, .reg b, .imm v] => do
    (← twoRegImmInstr l.mnemonic) (← regField a) (← regField b) (← immField v)
  | .oneRegImm, [.reg a, .imm v] => do (← oneRegImmInstr l.mnemonic) (← regField a) (← immField v)
  | .twoRegs, [.reg a, .reg b] => do (← twoRegInstr l.mnemonic) (← regField a) (← regField b)
  | .oneReg, [.reg a] => do (← oneRegInstr l.mnemonic) (← regField a)
  | .regCp0, [.reg a, .reg c] => do (← cp0Instr l.mnemonic) (← regField a) (← cp0Field c)
  | .regMem, [.reg a, .mem o b] => do (← memInstr l.mnemonic) (← regField a) (← immField o) (← regField b)
  | .target, [.imm t] => do (← targetInstr l.mnemonic) (← uintField 26 t)
  | .code, [] => do (← codeInstr l.mnemonic) 0
  | .code, [.imm c] => do (← codeInstr l.mnemonic) (← uintField 20 c)
  | .noOperand, [] => some .eret
  | _, _ => none

/-! ### From text to a line (R98: case is insignificant, operands are separated by commas) -/

/-- The spellings of the mnemonics; `sltui` is the page's spelling of SLTIU (C1, R98). -/
def mnemonicNames : List (String × Mnemonic) :=
  [("sll", .sll), ("srl", .srl), ("sra", .sra), ("sllv", .sllv), ("srlv", .srlv), ("srav", .srav),
   ("jr", .jr), ("jalr", .jalr), ("syscall", .syscall), ("break", .brk), ("mfhi", .mfhi), ("mthi", .mthi),
   ("mflo", .mflo), ("mtlo", .mtlo), ("mult", .mult), ("multu", .multu), ("div", .div), ("divu", .divu),
   ("add", .add), ("addu", .addu), ("sub", .sub), ("subu", .subu), ("and", .and), ("or", .or),
   ("xor", .xor), ("nor", .nor), ("slt", .slt), ("sltu", .sltu), ("bltz", .bltz), ("bgez", .bgez),
   ("j", .j), ("jal", .jal), ("beq", .beq), ("bne", .bne), ("blez", .blez), ("bgtz", .bgtz),
   ("addi", .addi), ("addiu", .addiu), ("slti", .slti), ("sltiu", .sltiu), ("andi", .andi), ("ori", .ori),
   ("xori", .xori), ("lui", .lui), ("mfc0", .mfc0), ("mtc0", .mtc0), ("eret", .eret), ("lb", .lb),
   ("lh", .lh), ("lw", .lw), ("lbu", .lbu), ("lhu", .lhu), ("sb", .sb), ("sh", .sh),
   ("sw", .sw), ("sltui", .sltiu)]

/-- The o32 register names, in the order of their numbers 0 to 31 (R22). -/
def registerNames : List String :=
  ["zero", "at", "v0", "v1", "a0", "a1", "a2", "a3", "t0", "t1", "t2", "t3", "t4", "t5", "t6", "t7",
   "s0", "s1", "s2", "s3", "s4", "s5", "s6", "s7", "t8", "t9", "k0", "k1", "gp", "sp", "fp", "ra"]

/-- The first entry of a table whose key is spelt by these characters. -/
def lookupName {α : Type} (cs : List Char) : List (String × α) → Option α
  | [] => none
  | (k, v) :: rest => if k.toList = cs then some v else lookupName cs rest

/-- The position of a name in a list of names. -/
def nameIndex (cs : List Char) : List String → Option Nat
  | [] => none
  | k :: rest => if k.toList = cs then some 0 else (nameIndex cs rest).map (· + 1)

/-- The value of a digit in a base up to 16. -/
def digitValue (base : Nat) (c : Char) : Option Nat :=
  let d := if '0' ≤ c ∧ c ≤ '9' then c.toNat - 48 else if 'a' ≤ c ∧ c ≤ 'f' then c.toNat - 87 else 16
  if d < base then some d else none

/-- A sequence of digits, most significant first, after an accumulated value. -/
def digitsValue (base : Nat) : Nat → List Char → Option Nat
  | acc, [] => some acc
  | acc, c :: cs => do digitsValue base (acc * base + (← digitValue base c)) cs

/-- An unsigned number: decimal, or hexadecimal after `0x`. -/
def parseNat : List Char → Option Nat
  | [] => none
  | ['0', 'x'] => none
  | '0' :: 'x' :: cs => digitsValue 16 0 cs
  | cs => digitsValue 10 0 cs

/-- A number, with an optional minus sign. -/
def parseInt : List Char → Option Int
  | '-' :: cs => (parseNat cs).map fun n => -(n : Int)
  | cs => (parseNat cs).map fun n => (n : Int)

/-- A register: `$name` or `$number` (R98). -/
def parseReg : List Char → Option RegText
  | '$' :: cs =>
    match nameIndex cs registerNames with
    | some n => some (.named (BitVec.ofNat 5 n))
    | none => (digitsValue 10 0 cs).bind fun n => if cs = [] then none else some (.numbered n)
  | _ => none

/-- The characters before the first `(`, and those after it. -/
def splitParen : List Char → List Char → Option (List Char × List Char)
  | _, [] => none
  | before, c :: cs => if c = '(' then some (before.reverse, cs) else splitParen (c :: before) cs

/-- An operand: a register, `offset(base)`, or a number (R98). -/
def parseOperand (cs : List Char) : Option Operand :=
  match cs with
  | '$' :: _ => (parseReg cs).map .reg
  | _ =>
    match splitParen [] cs with
    | none => (parseInt cs).map .imm
    | some (off, rest) =>
      match rest.reverse with
      | ')' :: base => do some (.mem (← parseInt off) (← parseReg base.reverse))
      | _ => none

/-- The pieces between commas. -/
def splitCommas : List Char → List Char → List (List Char)
  | piece, [] => [piece.reverse]
  | piece, c :: cs => if c = ',' then piece.reverse :: splitCommas [] cs else splitCommas (c :: piece) cs

/-- Every operand of a list, or nothing if one is unreadable. -/
def parseOperands : List (List Char) → Option (List Operand)
  | [] => some []
  | p :: ps => do some ((← parseOperand p) :: (← parseOperands ps))

/-- A line of assembly: the mnemonic, a space, operands separated by commas; case is insignificant (R98). -/
def parseLine (text : List Char) : Option AsmLine := do
  let cs := text.map Char.toLower
  let m ← lookupName (cs.takeWhile (· != ' ')) mnemonicNames
  let rest := (cs.dropWhile (· != ' ')).filter (· != ' ')
  let ops ← if rest = [] then some [] else parseOperands (splitCommas [] rest)
  some ⟨m, ops⟩

/-- The instruction a line of assembly text stands for. -/
def assembleText (text : String) : Option Instr := (parseLine text.toList).bind assemble

end Sys2Proof
end

