-- ==== Sys2Proof/Machine/Launch.lean ====
section
/-! DEFINITION. The launch (R260, R263, R270): what is supplied from outside before the first step, and the
constraints on it (92_eei_decisions.md, "The open parameters, collected"; R59; U13: a bad configuration is
refused). A step never checks the configuration again: no step changes it. -/

namespace Sys2Proof

/-- Every listed byte of the program text belongs to a word that is listed whole (`IMEM` is a map of words,
R33, R60). -/
def Config.textWhole (cfg : Config) : Bool :=
  cfg.imem.all fun c => decide (c.1 < 4294967296) && (Machine.textBytes cfg.imem (c.1 / 4 * 4)).isSome

/-- `IMEM` and `DMEM` are disjoint (R59). -/
def Config.disjoint (cfg : Config) : Bool := cfg.imem.all fun c => !cfg.mapsData (BitVec.ofNat 32 c.1)

/-- The regions of `DMEM` are made of aligned words inside the address space (R59). -/
def Config.dmemAligned (cfg : Config) : Bool :=
  cfg.dmemMap.all fun r => Machine.aligned4 r.base && decide (r.base.toNat + 4 * r.words ≤ 4294967296)

/-- The constraints on a configuration: `EXC_VECTOR` and `RESET_PC` are multiples of 4, `IMEM` and `DMEM` are made
of words and disjoint, `RESET_PC` lies in `IMEM`. (`EPC_IDX` and `FAULT_EPC_OFFSET` are in range by their types.) -/
def Config.valid (cfg : Config) : Bool :=
  Machine.aligned4 cfg.excVector && Machine.aligned4 cfg.resetPc && Memory.wf cfg.imem && cfg.textWhole &&
    cfg.dmemAligned && cfg.disjoint && (Machine.textBytes cfg.imem cfg.resetPc.toNat).isSome

end Sys2Proof

namespace Sys2Proof.Machine

/-- Initial values that a launch supplies (R260: "explicit, named premises"). -/
structure LaunchValues where
  gpr : Vector Word 31
  hi : Word
  lo : Word
  cp0 : Cp0File
  dmem : Memory
deriving DecidableEq, Repr

/-- The initial data is canonical and lies in `DMEM` (R263). -/
def dataInDmem (cfg : Config) (m : Memory) : Bool :=
  Memory.wf m && m.all fun c => decide (c.1 < 4294967296) && cfg.mapsData (BitVec.ofNat 32 c.1)

/-- The state before the first step, `pc = RESET_PC`; a bad configuration or initial data outside `DMEM` is
refused. -/
def launch (cfg : Config) (v : LaunchValues) : Result :=
  if cfg.valid && dataInDmem cfg v.dmem then
    .next { State.resetWith cfg with gpr := v.gpr, hi := v.hi, lo := v.lo, cp0 := v.cp0, dmem := v.dmem }
  else .refused .badConfiguration

end Sys2Proof.Machine
end

