-- ==== Sys2Proof/Safety.lean ====
section
/-! DEFINITION. The terms that claims are stated in: the end of a run (R270), what holds of a state after reset
(R260), the invariant that every step keeps, and what it means that an instruction changes one thing and nothing
else. -/

namespace Sys2Proof.Machine

/-! ### Runs (R270) -/

/-- How far a run has come. -/
inductive RunEnd where
  /-- `HALT` held before a step: this is the final state (R270 a). -/
  | completed (s : State)
  /-- A step was a model fault: there is no final state (R270 b). -/
  | faulted (f : Fault)
  /-- A step was refused. -/
  | refused (r : Refusal)
  /-- Neither yet. -/
  | running (s : State)
deriving DecidableEq, Repr

/-- A run of at most `n` steps under the predicate `HALT` (R270): `HALT` is tested before each step, before
fetch; where it holds the machine takes no further step. `HALT` is any predicate on the state, which carries
the configuration (log 31). -/
def runTo (halt : State → Bool) : Nat → State → RunEnd
  | 0, s => if halt s then .completed s else .running s
  | n + 1, s =>
    if halt s then .completed s
    else match step s with
      | .next t => runTo halt n t
      | .fault f => .faulted f
      | .refused r => .refused r

/-- A run is safe if no step of it is a model fault (R231: "takes 'no model fault occurs' as an obligation"). -/
def NeverFaults (halt : State → Bool) (s : State) : Prop := ∀ n f, runTo halt n s ≠ .faulted f

/-! ### Reset and the invariant -/

/-- A state that reset may leave under a configuration (R260): `pc = RESET_PC` and no byte of data memory
written; every register unspecified. `State.resetWith cfg` is one of them. -/
def IsAfterReset (cfg : Config) (s : State) : Prop := s.cfg = cfg ∧ s.pc = cfg.resetPc ∧ s.dmem = []

/-- Every byte that the data memory lists lies in `DMEM` (R32, R59). -/
def DataMapped (s : State) : Prop :=
  ∀ c ∈ s.dmem, c.1 < 4294967296 ∧ s.cfg.mapsData (BitVec.ofNat 32 c.1) = true

/-- The invariant: both memories are in canonical form and the data memory stays inside `DMEM`. -/
def Inv (s : State) : Prop := Memory.wf s.dmem = true ∧ Memory.wf s.cfg.imem = true ∧ DataMapped s

/-- What a launch must meet (92_eei_decisions.md, "The open parameters, collected"; R59, R263): `EXC_VECTOR` and
`RESET_PC` are multiples of 4; `IMEM` is canonical and made of whole words at multiples of 4; so is `DMEM`, inside the
address space; the two are disjoint; `RESET_PC` lies in `IMEM`; the initial data is canonical and lies in `DMEM`. -/
def LaunchMeets (cfg : Config) (v : LaunchValues) : Prop :=
  cfg.excVector.toNat % 4 = 0 ∧ cfg.resetPc.toNat % 4 = 0 ∧
    (Memory.wf cfg.imem = true ∧ ∀ c ∈ cfg.imem, c.1 < 4294967296 ∧
      ∀ k < 4, Memory.read cfg.imem (c.1 / 4 * 4 + k) ≠ none) ∧
    (∀ r ∈ cfg.dmemMap, r.base.toNat % 4 = 0 ∧ r.base.toNat + 4 * r.words ≤ 4294967296) ∧
    (∀ c ∈ cfg.imem, cfg.mapsData (BitVec.ofNat 32 c.1) = false) ∧
    (∀ k < 4, Memory.read cfg.imem (cfg.resetPc.toNat + k) ≠ none) ∧
    (Memory.wf v.dmem = true ∧ ∀ c ∈ v.dmem, c.1 < 4294967296 ∧ cfg.mapsData (BitVec.ofNat 32 c.1) = true)

/-! ### What stays the same -/

/-- Every general register is unchanged. -/
def SameGpr (s t : State) : Prop := ∀ r, t.readReg r = s.readReg r

/-- Every general register but `rd` is unchanged. -/
def SameGprBut (rd : Reg) (s t : State) : Prop := ∀ r, r ≠ rd → t.readReg r = s.readReg r

/-- HI and LO are unchanged. -/
def SameHiLo (s t : State) : Prop := t.hi = s.hi ∧ t.lo = s.lo

/-- Every CP0 cell, `epc` among them, is unchanged. -/
def SameCp0 (s t : State) : Prop := ∀ c, t.readCp0 c = s.readCp0 c

/-- Every byte of data memory is unchanged. -/
def SameDmem (s t : State) : Prop := ∀ a, Memory.read t.dmem a = Memory.read s.dmem a

/-- The configuration (the program text with it) is unchanged. -/
def SameCfg (s t : State) : Prop := t.cfg = s.cfg

/-- No free value has been drawn. -/
def SameDraws (s t : State) : Prop := t.draws = s.draws

/-- `t` is `s` after `x[rd] <- v` and `pc <- pc + 4`, nothing else; a write to `x[0]` is discarded (R21). -/
def WritesReg (rd : Reg) (v : Word) (s t : State) : Prop :=
  t.readReg rd = (if rd = 0#5 then 0#32 else v) ∧ t.pc = s.pc + 4#32 ∧
    SameGprBut rd s t ∧ SameHiLo s t ∧ SameCp0 s t ∧ SameDmem s t ∧ SameCfg s t ∧ SameDraws s t

/-- `t` is `s` after `hi <- h`, `lo <- l` and `pc <- pc + 4`, nothing else. -/
def WritesHiLo (h l : Word) (s t : State) : Prop :=
  t.hi = h ∧ t.lo = l ∧ t.pc = s.pc + 4#32 ∧
    SameGpr s t ∧ SameCp0 s t ∧ SameDmem s t ∧ SameCfg s t ∧ SameDraws s t

/-- `t` is `s` after `pc <- target`, nothing else. -/
def WritesPc (target : Word) (s t : State) : Prop :=
  t.pc = target ∧ SameGpr s t ∧ SameHiLo s t ∧ SameCp0 s t ∧ SameDmem s t ∧ SameCfg s t ∧ SameDraws s t

/-- `t` is `s` after the `n` bytes of `v` from bit 0 up are stored at `addr`, `addr + 1`, … and `pc <- pc + 4`,
nothing else. -/
def StoresBytes (addr : Word) (n : Nat) (v : Word) (s t : State) : Prop :=
  (∀ k < n, Memory.read t.dmem (addr.toNat + k) = some (v.extractLsb' (8 * k) 8)) ∧
    (∀ a, a < addr.toNat ∨ addr.toNat + n ≤ a → Memory.read t.dmem a = Memory.read s.dmem a) ∧
    t.pc = s.pc + 4#32 ∧ SameGpr s t ∧ SameHiLo s t ∧ SameCp0 s t ∧ SameCfg s t ∧ SameDraws s t

/-- `t` is `s` after `x[rt] <- v` by a load and `pc <- pc + 4`; the draw counter moves only if one of the `n`
bytes loaded was never written. -/
def Loads (rt : Reg) (addr : Word) (n : Nat) (v : Word) (s t : State) : Prop :=
  t.readReg rt = (if rt = 0#5 then 0#32 else v) ∧ t.pc = s.pc + 4#32 ∧
    t.draws = (if ∃ k < n, Memory.read s.dmem (addr.toNat + k) = none then s.draws + 1 else s.draws) ∧
    SameGprBut rt s t ∧ SameHiLo s t ∧ SameCp0 s t ∧ SameDmem s t ∧ SameCfg s t

/-- `t` is `s` after exception entry with `epc = v` (R226), nothing changed but CP0 and `pc`; every CP0 cell but
`EPC_IDX` is as `Cp0OnEntry` leaves it. -/
def Enters (e : Exc) (v : Word) (s t : State) : Prop :=
  t.epc = v ∧ t.pc = s.cfg.excVector ∧
    (∀ c, c ≠ s.cfg.epcIdx → t.readCp0 c = cp0Cell (cp0OnEntry s.cfg s.cp0 e s.pc) c) ∧
    SameGpr s t ∧ SameHiLo s t ∧ SameDmem s t ∧ SameCfg s t ∧ SameDraws s t

/-- `t` is `s` after `x[rd] <- pc + 4` and `pc <- target`, nothing else (R181, R182). -/
def Links (rd : Reg) (target : Word) (s t : State) : Prop :=
  t.readReg rd = (if rd = 0#5 then 0#32 else s.pc + 4#32) ∧ t.pc = target ∧
    SameGprBut rd s t ∧ SameHiLo s t ∧ SameCp0 s t ∧ SameDmem s t ∧ SameCfg s t ∧ SameDraws s t

/-- `t` is `s` after `cp0[rd] <- v` and `pc <- pc + 4`, nothing else (R202). -/
def WritesCp0 (rd : Reg) (v : Word) (s t : State) : Prop :=
  t.readCp0 rd = v ∧ t.pc = s.pc + 4#32 ∧ (∀ c, c ≠ rd → t.readCp0 c = s.readCp0 c) ∧
    SameGpr s t ∧ SameHiLo s t ∧ SameDmem s t ∧ SameCfg s t ∧ SameDraws s t

/-- `t` is `s` after the return from an exception (R200, R230): `pc` is the old `epc`, `epc` stands, every other
CP0 cell is as `Cp0OnReturn` leaves it, nothing else. -/
def Returns (s t : State) : Prop :=
  t.pc = s.epc ∧ t.epc = s.epc ∧ (∀ c, t.readCp0 c = cp0Cell (cp0OnReturn s.cfg s.cp0) c) ∧
    SameGpr s t ∧ SameHiLo s t ∧ SameDmem s t ∧ SameCfg s t ∧ SameDraws s t

/-- Instruction `i` completes in state `s`, and its next state `t` satisfies `P`. -/
def Completes (i : Instr) (s : State) (P : State → Prop) : Prop := ∃ t, exec i s = .next t ∧ P t

/-- `reader`, executed directly after `i`, completes and finds `v` in the register `rd` that it writes. -/
def NextReads (i reader : Instr) (rd : Reg) (v : Word) (s : State) : Prop :=
  Completes i s fun t => Completes reader t fun u => u.readReg rd = v

/-- MFHI directly after `i` moves `h`, and MFLO directly after `i` moves `l` (R267). -/
def NextReadsHiLo (i : Instr) (rd : Reg) (h l : Word) (s : State) : Prop :=
  NextReads i (.mfhi rd) rd h s ∧ NextReads i (.mflo rd) rd l s

/-! ### Who reads and writes what (R23, R27, R50) -/

/-- The general register that an instruction writes, if it writes one (R23). -/
def destReg : Instr → Option Reg
  | .sll rd _ _ | .srl rd _ _ | .sra rd _ _ | .sllv rd _ _ | .srlv rd _ _ | .srav rd _ _ => some rd
  | .add rd _ _ | .addu rd _ _ | .sub rd _ _ | .subu rd _ _ | .and rd _ _ | .or rd _ _ => some rd
  | .xor rd _ _ | .nor rd _ _ | .slt rd _ _ | .sltu rd _ _ | .jalr rd _ | .mfhi rd | .mflo rd => some rd
  | .addi rt _ _ | .addiu rt _ _ | .andi rt _ _ | .ori rt _ _ | .xori rt _ _ | .lui rt _ => some rt
  | .slti rt _ _ | .sltiu rt _ _ | .mfc0 rt _ => some rt
  | .lb rt _ _ | .lbu rt _ _ | .lh rt _ _ | .lhu rt _ _ | .lw rt _ _ => some rt
  | .jal _ => some 31#5
  | .jr _ | .syscall _ | .brk _ | .mthi _ | .mtlo _ | .mult _ _ | .multu _ _ | .div _ _ | .divu _ _ => none
  | .bltz _ _ | .bgez _ _ | .j _ | .beq _ _ _ | .bne _ _ _ | .blez _ _ | .bgtz _ _ => none
  | .mtc0 _ _ | .eret | .sb _ _ _ | .sh _ _ _ | .sw _ _ _ => none

/-- The instructions that write HI (R27). -/
def writesHi : Instr → Bool
  | .mult _ _ | .multu _ _ | .div _ _ | .divu _ _ | .mthi _ => true
  | _ => false

/-- The instructions that write LO (R27). -/
def writesLo : Instr → Bool
  | .mult _ _ | .multu _ _ | .div _ _ | .divu _ _ | .mtlo _ => true
  | _ => false

/-- The stores (R50), with the field that holds the base, the offset and the number of bytes. -/
def storeSpan : Instr → Option (Reg × Half × Nat)
  | .sb _ offset base => some (base, offset, 1)
  | .sh _ offset base => some (base, offset, 2)
  | .sw _ offset base => some (base, offset, 4)
  | _ => none

/-- The instructions that can raise an exception (R220). -/
def mayRaise : Instr → Bool
  | .add _ _ _ | .addi _ _ _ | .sub _ _ _ => true
  | .lh _ _ _ | .lhu _ _ _ | .lw _ _ _ | .sh _ _ _ | .sw _ _ _ => true
  | .brk _ | .syscall _ => true
  | _ => false

/-- The instructions that copy a value of any alignment into `pc` (R26). -/
def copiesPc : Instr → Bool
  | .jr _ | .jalr _ _ | .eret => true
  | _ => false

/-- The loads and stores, which alone reach the data memory (R50). -/
def accessesData : Instr → Bool
  | .lb _ _ _ | .lbu _ _ _ | .lh _ _ _ | .lhu _ _ _ | .lw _ _ _ | .sb _ _ _ | .sh _ _ _ | .sw _ _ _ => true
  | _ => false

/-- The loads, which alone read the data memory (R50). -/
def readsData : Instr → Bool
  | .lb _ _ _ | .lbu _ _ _ | .lh _ _ _ | .lhu _ _ _ | .lw _ _ _ => true
  | _ => false

/-- The general registers that an instruction reads (R23), those named `rs` or `base` first. -/
def sourceRegs : Instr → List Reg
  | .add _ rs rt | .addu _ rs rt | .sub _ rs rt | .subu _ rs rt | .and _ rs rt | .or _ rs rt => [rs, rt]
  | .xor _ rs rt | .nor _ rs rt | .slt _ rs rt | .sltu _ rs rt => [rs, rt]
  | .mult rs rt | .multu rs rt | .div rs rt | .divu rs rt | .beq rs rt _ | .bne rs rt _ => [rs, rt]
  | .sllv _ rt rs | .srlv _ rt rs | .srav _ rt rs => [rs, rt]
  | .sll _ rt _ | .srl _ rt _ | .sra _ rt _ | .mtc0 rt _ => [rt]
  | .addi _ rs _ | .addiu _ rs _ | .andi _ rs _ | .ori _ rs _ | .xori _ rs _ | .slti _ rs _ | .sltiu _ rs _ => [rs]
  | .blez rs _ | .bgtz rs _ | .bltz rs _ | .bgez rs _ | .jr rs | .jalr _ rs | .mthi rs | .mtlo rs => [rs]
  | .lb _ _ base | .lbu _ _ base | .lh _ _ base | .lhu _ _ base | .lw _ _ base => [base]
  | .sb rt _ base | .sh rt _ base | .sw rt _ base => [base, rt]
  | .lui _ _ | .mfhi _ | .mflo _ | .mfc0 _ _ | .eret | .syscall _ | .brk _ | .j _ | .jal _ => []

/-- The exception that an instruction raises in a state, by the table of R220, with its condition in integers. -/
def raisedBy : Instr → State → Option Exc
  | .add _ rs rt, s => outside ((s.readReg rs).toInt + (s.readReg rt).toInt)
  | .sub _ rs rt, s => outside ((s.readReg rs).toInt - (s.readReg rt).toInt)
  | .addi _ rs imm, s => outside ((s.readReg rs).toInt + imm.toInt)
  | .lh _ offset base, s | .lhu _ offset base, s => unaligned 2 .load (effAddr base offset s)
  | .lw _ offset base, s => unaligned 4 .load (effAddr base offset s)
  | .sh _ offset base, s => unaligned 2 .store (effAddr base offset s)
  | .sw _ offset base, s => unaligned 4 .store (effAddr base offset s)
  | .brk _, _ => some .breakpoint
  | .syscall _, _ => some .syscall
  | _, _ => none
where
  /-- IntegerOverflow, if the exact result is no signed 32-bit number. -/
  outside (v : Int) : Option Exc := if -2147483648 ≤ v ∧ v < 2147483648 then none else some .integerOverflow
  /-- AddressError, if the address is no multiple of the size of the access. -/
  unaligned (size : Nat) (kind : AccessKind) (addr : Word) : Option Exc :=
    if addr.toNat % size = 0 then none else some (.addressError kind addr)

/-- The aligned word that contains the byte at `addr`: the `memword` of R51 and the `w` of R55. -/
def memword (s : State) (addr : Word) : Word := s.readData32 (containingWord addr)

/-- Outcomes of one instruction from two states that differ in a part only, which `put` writes: both next states,
equal but for that part, or the same fault or refusal. -/
def AgreeBut (put : State → State → State) : Result → Result → Prop
  | .next t, .next u => put t u = t
  | .fault f, .fault g => f = g
  | .refused q, .refused r => q = r
  | _, _ => False

/-- Two outcomes differ in the CP0 file at most. -/
def AgreeButCp0 : Result → Result → Prop := AgreeBut fun t u => u.setCp0 t.cp0

/-- Two outcomes differ in HI at most. -/
def AgreeButHi : Result → Result → Prop := AgreeBut fun t u => u.setHi t.hi

/-- Two outcomes differ in LO at most. -/
def AgreeButLo : Result → Result → Prop := AgreeBut fun t u => u.setLo t.lo

/-- Two outcomes differ in the data memory at most. -/
def AgreeButDmem : Result → Result → Prop := AgreeBut fun t u => u.setDmem t.dmem

/-- Two outcomes differ in the general registers at most. -/
def AgreeButGpr : Result → Result → Prop := AgreeBut fun t u => { u with gpr := t.gpr }

/-- The words that decode to an instruction of one kind are exactly those with `(w AND mask) = pattern`, and `mk`
reads the operands from the word's fields (R93, and the Encoding line of the instruction's rule). -/
def EncodedAs (mask pattern : Word) (mk : Word → Instr) : Prop :=
  ∀ w, decodeWord w = .ok (mk w) ↔ w &&& mask = pattern

end Sys2Proof.Machine
end

