-- ==== Sys2Proof/Certificates/Slice0/Obligations.lean ====
section
/-! DEFINITION. The statements for the provers (OBLIGATIONS.json). Each says of the machine what a numbered rule of
spec/ says of the hardware; where a clause rests on a decision of the spec, on general knowledge, or on a choice of
the model, its docstring names the decision D<n> or the log entry. -/

open Sys2Proof Sys2Proof.Machine

/-- O1. The words of ADD are those of its opcode-table row. For all register numbers and every state: if the exact
signed sum of x[rs] and x[rt] lies in -2^31..2^31-1, ADD completes with that sum in x[rd], pc advanced by 4 and
nothing else changed; otherwise it enters IntegerOverflow and changes nothing but CP0 and pc. A write to
register 0 is discarded (decision D1, log 9; no rule is cited for that clause). The EPC of a fault is the open
parameter of R227 (decision D11, log 16). -/
def Obligations.AddGivesSumOrTraps : Prop :=
  EncodedAs 0xFC0007FF#32 0x00000020#32 (fun w => .add (rdOf w) (rsOf w) (rtOf w)) ∧
    ∀ (rd rs rt : Reg) (s : State),
      let sum := (s.readReg rs).toInt + (s.readReg rt).toInt
      if -2147483648 ≤ sum ∧ sum < 2147483648 then
        ∃ v : Word, v.toInt = sum ∧ Completes (.add rd rs rt) s (WritesReg rd v s)
      else
        Completes (.add rd rs rt) s (Enters .integerOverflow (s.pc + faultOffset s.cfg.faultEpcOffset) s)

/-- O2. The words of SUB are those of its row. If the exact signed difference of x[rs] and x[rt] lies in
-2^31..2^31-1, SUB completes with it in x[rd], pc advanced by 4 and nothing else changed; otherwise it enters
IntegerOverflow and changes nothing but CP0 and pc. That SUB traps is the spec's decision D21 (log 25). A write
to register 0 is discarded (decision D1, log 9; no rule is cited for that clause). The EPC of a fault is the
open parameter of R227 (decision D11, log 16). -/
def Obligations.SubGivesDifferenceOrTraps : Prop :=
  EncodedAs 0xFC0007FF#32 0x00000022#32 (fun w => .sub (rdOf w) (rsOf w) (rtOf w)) ∧
    ∀ (rd rs rt : Reg) (s : State),
      let difference := (s.readReg rs).toInt - (s.readReg rt).toInt
      if -2147483648 ≤ difference ∧ difference < 2147483648 then
        ∃ v : Word, v.toInt = difference ∧ Completes (.sub rd rs rt) s (WritesReg rd v s)
      else
        Completes (.sub rd rs rt) s (Enters .integerOverflow (s.pc + faultOffset s.cfg.faultEpcOffset) s)

/-- O3. The words of ADDI are those of its row. If the exact sum of x[rs], read as signed, and the signed immediate
lies in -2^31..2^31-1, ADDI completes with it in x[rt], pc advanced by 4 and nothing else changed; otherwise it
enters IntegerOverflow and changes nothing but CP0 and pc. A write to register 0 is discarded (decision D1, log
9; no rule is cited for that clause). The EPC of a fault is the open parameter of R227 (decision D11, log 16). -/
def Obligations.AddiGivesSumOrTraps : Prop :=
  EncodedAs 0xFC000000#32 0x20000000#32 (fun w => .addi (rtOf w) (rsOf w) (immOf w)) ∧
    ∀ (rt rs : Reg) (imm : Half) (s : State),
      let sum := (s.readReg rs).toInt + imm.toInt
      if -2147483648 ≤ sum ∧ sum < 2147483648 then
        ∃ v : Word, v.toInt = sum ∧ Completes (.addi rt rs imm) s (WritesReg rt v s)
      else
        Completes (.addi rt rs imm) s (Enters .integerOverflow (s.pc + faultOffset s.cfg.faultEpcOffset) s)

/-- O4. The words of ADDU, SUBU and ADDIU are those of their rows. In every state ADDU writes (x[rs] + x[rt]) mod
2^32, SUBU (x[rs] - x[rt]) mod 2^32 and ADDIU (x[rs] + signed immediate) mod 2^32 to the destination, advances
pc by 4 and changes nothing else. A write to register 0 is discarded (decision D1, log 9; no rule is cited for
that clause). -/
def Obligations.WrappingAddAndSubtract : Prop :=
  EncodedAs 0xFC0007FF#32 0x00000021#32 (fun w => .addu (rdOf w) (rsOf w) (rtOf w)) ∧
    EncodedAs 0xFC0007FF#32 0x00000023#32 (fun w => .subu (rdOf w) (rsOf w) (rtOf w)) ∧
    EncodedAs 0xFC000000#32 0x24000000#32 (fun w => .addiu (rtOf w) (rsOf w) (immOf w)) ∧
    (∀ (rd rs rt : Reg) (s : State), ∃ v : Word,
      v.toNat = ((s.readReg rs).toNat + (s.readReg rt).toNat) % 4294967296 ∧
        Completes (.addu rd rs rt) s (WritesReg rd v s)) ∧
    (∀ (rd rs rt : Reg) (s : State), ∃ v : Word,
      (v.toNat : Int) = ((s.readReg rs).toNat - (s.readReg rt).toNat : Int) % 4294967296 ∧
        Completes (.subu rd rs rt) s (WritesReg rd v s)) ∧
    (∀ (rt rs : Reg) (imm : Half) (s : State), ∃ v : Word,
      (v.toNat : Int) = ((s.readReg rs).toNat + imm.toInt) % 4294967296 ∧
        Completes (.addiu rt rs imm) s (WritesReg rt v s))

/-- O5. For all operands and every state, ADD gives exactly the outcome of ADDU where the exact signed sum fits in
32 bits, and the exception entry of IntegerOverflow where it does not; likewise SUB and SUBU with the
difference, and ADDI and ADDIU with the immediate. (R150, a law that the spec marks as derived.) -/
def Obligations.TrappingFormsAgreeWithWrappingForms : Prop :=
  (∀ (rd rs rt : Reg) (s : State),
    exec (.add rd rs rt) s =
      if (s.readReg rs).toInt + (s.readReg rt).toInt < -2147483648 ∨
          2147483647 < (s.readReg rs).toInt + (s.readReg rt).toInt then .next (raise .integerOverflow s)
      else exec (.addu rd rs rt) s) ∧
    (∀ (rd rs rt : Reg) (s : State),
      exec (.sub rd rs rt) s =
        if (s.readReg rs).toInt - (s.readReg rt).toInt < -2147483648 ∨
            2147483647 < (s.readReg rs).toInt - (s.readReg rt).toInt then .next (raise .integerOverflow s)
        else exec (.subu rd rs rt) s) ∧
    (∀ (rt rs : Reg) (imm : Half) (s : State),
      exec (.addi rt rs imm) s =
        if (s.readReg rs).toInt + imm.toInt < -2147483648 ∨ 2147483647 < (s.readReg rs).toInt + imm.toInt then
          .next (raise .integerOverflow s)
        else exec (.addiu rt rs imm) s)

/-- O6. The words of AND, OR, XOR and NOR are those of their rows. In every state each completes: bit k of the
destination, for k from 0 to 31, is the and, or, exclusive or, or nor of bits k of x[rs] and x[rt]; pc advances
by 4 and nothing else changes. A write to register 0 is discarded (decision D1, log 9; no rule is cited for that
clause). -/
def Obligations.LogicOnRegistersBitByBit : Prop :=
  EncodedAs 0xFC0007FF#32 0x00000024#32 (fun w => .and (rdOf w) (rsOf w) (rtOf w)) ∧
    EncodedAs 0xFC0007FF#32 0x00000025#32 (fun w => .or (rdOf w) (rsOf w) (rtOf w)) ∧
    EncodedAs 0xFC0007FF#32 0x00000026#32 (fun w => .xor (rdOf w) (rsOf w) (rtOf w)) ∧
    EncodedAs 0xFC0007FF#32 0x00000027#32 (fun w => .nor (rdOf w) (rsOf w) (rtOf w)) ∧
    ∀ (rd rs rt : Reg) (s : State),
      let a := s.readReg rs
      let b := s.readReg rt
      (∃ v : Word, (∀ k < 32, v.getLsbD k = (a.getLsbD k && b.getLsbD k)) ∧
        Completes (.and rd rs rt) s (WritesReg rd v s)) ∧
      (∃ v : Word, (∀ k < 32, v.getLsbD k = (a.getLsbD k || b.getLsbD k)) ∧
        Completes (.or rd rs rt) s (WritesReg rd v s)) ∧
      (∃ v : Word, (∀ k < 32, v.getLsbD k = (a.getLsbD k != b.getLsbD k)) ∧
        Completes (.xor rd rs rt) s (WritesReg rd v s)) ∧
      (∃ v : Word, (∀ k < 32, v.getLsbD k = !(a.getLsbD k || b.getLsbD k)) ∧
        Completes (.nor rd rs rt) s (WritesReg rd v s))

/-- O7. The words of ANDI, ORI and XORI are those of their rows. In every state each completes: below bit 16 the
destination's bit is the and, or, exclusive or with the immediate's bit; from bit 16 up ANDI gives 0 and ORI and
XORI pass x[rs] through; pc advances by 4 and nothing else changes. A write to register 0 is discarded (decision
D1, log 9; no rule is cited for that clause). -/
def Obligations.LogicWithZeroExtendedImmediate : Prop :=
  EncodedAs 0xFC000000#32 0x30000000#32 (fun w => .andi (rtOf w) (rsOf w) (immOf w)) ∧
    EncodedAs 0xFC000000#32 0x34000000#32 (fun w => .ori (rtOf w) (rsOf w) (immOf w)) ∧
    EncodedAs 0xFC000000#32 0x38000000#32 (fun w => .xori (rtOf w) (rsOf w) (immOf w)) ∧
    ∀ (rt rs : Reg) (imm : Half) (s : State),
      let a := s.readReg rs
      (∃ v : Word, (∀ k < 16, v.getLsbD k = (a.getLsbD k && imm.getLsbD k)) ∧
        (∀ k, 16 ≤ k → v.getLsbD k = false) ∧ Completes (.andi rt rs imm) s (WritesReg rt v s)) ∧
      (∃ v : Word, (∀ k < 16, v.getLsbD k = (a.getLsbD k || imm.getLsbD k)) ∧
        (∀ k, 16 ≤ k → v.getLsbD k = a.getLsbD k) ∧ Completes (.ori rt rs imm) s (WritesReg rt v s)) ∧
      (∃ v : Word, (∀ k < 16, v.getLsbD k = (a.getLsbD k != imm.getLsbD k)) ∧
        (∀ k, 16 ≤ k → v.getLsbD k = a.getLsbD k) ∧ Completes (.xori rt rs imm) s (WritesReg rt v s))

/-- O8. The words of LUI are those of its row. In every state LUI completes with x[rt] = immediate * 2^16, pc
advanced by 4 and nothing else changed. A write to register 0 is discarded (decision D1, log 9; no rule is cited
for that clause). -/
def Obligations.LuiPlacesImmediateHigh : Prop :=
  EncodedAs 0xFFE00000#32 0x3C000000#32 (fun w => .lui (rtOf w) (immOf w)) ∧
    ∀ (rt : Reg) (imm : Half) (s : State),
      ∃ v : Word, v.toNat = imm.toNat * 65536 ∧ Completes (.lui rt imm) s (WritesReg rt v s)

/-- O9. The words of SLT and SLTU are those of their rows. In every state SLT writes 1 to x[rd] if signed x[rs] <
signed x[rt], else 0; SLTU the same with both read as unsigned; pc advances by 4 and nothing else changes. A
write to register 0 is discarded (decision D1, log 9; no rule is cited for that clause). -/
def Obligations.SetOnLessThanRegisters : Prop :=
  EncodedAs 0xFC0007FF#32 0x0000002A#32 (fun w => .slt (rdOf w) (rsOf w) (rtOf w)) ∧
    EncodedAs 0xFC0007FF#32 0x0000002B#32 (fun w => .sltu (rdOf w) (rsOf w) (rtOf w)) ∧
    ∀ (rd rs rt : Reg) (s : State),
      Completes (.slt rd rs rt) s
        (WritesReg rd (if (s.readReg rs).toInt < (s.readReg rt).toInt then 1#32 else 0#32) s) ∧
      Completes (.sltu rd rs rt) s
        (WritesReg rd (if (s.readReg rs).toNat < (s.readReg rt).toNat then 1#32 else 0#32) s)

/-- O10. The words of SLTI and SLTIU are those of their rows. In every state SLTI writes 1 to x[rt] if signed x[rs]
is less than the signed immediate, else 0; SLTIU compares unsigned x[rs] with the immediate, to which 2^32 -
2^16 is added if its bit 15 is 1 (sign extension read as unsigned); pc advances by 4 and nothing else changes. A
write to register 0 is discarded (decision D1, log 9; no rule is cited for that clause). -/
def Obligations.SetOnLessThanImmediate : Prop :=
  EncodedAs 0xFC000000#32 0x28000000#32 (fun w => .slti (rtOf w) (rsOf w) (immOf w)) ∧
    EncodedAs 0xFC000000#32 0x2C000000#32 (fun w => .sltiu (rtOf w) (rsOf w) (immOf w)) ∧
    ∀ (rt rs : Reg) (imm : Half) (s : State),
      Completes (.slti rt rs imm) s (WritesReg rt (if (s.readReg rs).toInt < imm.toInt then 1#32 else 0#32) s) ∧
      Completes (.sltiu rt rs imm) s
        (WritesReg rt
          (if (s.readReg rs).toNat < (if imm.toNat < 32768 then imm.toNat else imm.toNat + 4294901760) then 1#32
          else 0#32) s)

/-- O11. The words of SLL, SRL and SRA are those of their rows. In every state and for every amount s of 0..31: SLL
writes (x[rt] * 2^s) mod 2^32, SRL floor(unsigned x[rt] / 2^s), SRA floor(signed x[rt] / 2^s) to x[rd]; pc
advances by 4 and nothing else changes. A write to register 0 is discarded (decision D1, log 9; no rule is cited
for that clause). -/
def Obligations.ShiftsByConstantAmount : Prop :=
  EncodedAs 0xFFE0003F#32 0x00000000#32 (fun w => .sll (rdOf w) (rtOf w) (shamtOf w)) ∧
    EncodedAs 0xFFE0003F#32 0x00000002#32 (fun w => .srl (rdOf w) (rtOf w) (shamtOf w)) ∧
    EncodedAs 0xFFE0003F#32 0x00000003#32 (fun w => .sra (rdOf w) (rtOf w) (shamtOf w)) ∧
    ∀ (rd rt : Reg) (sa : BitVec 5) (s : State),
      let a := s.readReg rt
      (∃ v : Word, v.toNat = a.toNat * 2 ^ sa.toNat % 4294967296 ∧
        Completes (.sll rd rt sa) s (WritesReg rd v s)) ∧
      (∃ v : Word, v.toNat = a.toNat / 2 ^ sa.toNat ∧ Completes (.srl rd rt sa) s (WritesReg rd v s)) ∧
      (∃ v : Word, v.toInt = Int.fdiv a.toInt (2 ^ sa.toNat) ∧ Completes (.sra rd rt sa) s (WritesReg rd v s))

/-- O12. The words of SLLV, SRLV and SRAV are those of their rows. In every state, with n = x[rs] mod 32: SLLV
writes (x[rt] * 2^n) mod 2^32, SRLV floor(unsigned x[rt] / 2^n), SRAV floor(signed x[rt] / 2^n) to x[rd]; pc
advances by 4 and nothing else changes. That the amount is the low five bits is decision D20 (log 24). A write
to register 0 is discarded (decision D1, log 9; no rule is cited for that clause). -/
def Obligations.ShiftsByRegisterAmount : Prop :=
  EncodedAs 0xFC0007FF#32 0x00000004#32 (fun w => .sllv (rdOf w) (rtOf w) (rsOf w)) ∧
    EncodedAs 0xFC0007FF#32 0x00000006#32 (fun w => .srlv (rdOf w) (rtOf w) (rsOf w)) ∧
    EncodedAs 0xFC0007FF#32 0x00000007#32 (fun w => .srav (rdOf w) (rtOf w) (rsOf w)) ∧
    ∀ (rd rt rs : Reg) (s : State),
      let a := s.readReg rt
      let n := (s.readReg rs).toNat % 32
      (∃ v : Word, v.toNat = a.toNat * 2 ^ n % 4294967296 ∧
        Completes (.sllv rd rt rs) s (WritesReg rd v s)) ∧
      (∃ v : Word, v.toNat = a.toNat / 2 ^ n ∧ Completes (.srlv rd rt rs) s (WritesReg rd v s)) ∧
      (∃ v : Word, v.toInt = Int.fdiv a.toInt (2 ^ n) ∧ Completes (.srav rd rt rs) s (WritesReg rd v s))

/-- O13. The words of MULT and MULTU are those of their rows. In every state MULT completes with HI and LO such that
the 64-bit number HI:LO, read as signed, is exactly signed x[rs] * signed x[rt]; MULTU such that, read as
unsigned, it is exactly unsigned x[rs] * unsigned x[rt]; pc advances by 4 and nothing else changes. -/
def Obligations.MultiplyGivesFullProduct : Prop :=
  EncodedAs 0xFC00FFFF#32 0x00000018#32 (fun w => .mult (rsOf w) (rtOf w)) ∧
    EncodedAs 0xFC00FFFF#32 0x00000019#32 (fun w => .multu (rsOf w) (rtOf w)) ∧
    (∀ (rs rt : Reg) (s : State), ∃ h l : Word,
      (h ++ l : BitVec 64).toInt = (s.readReg rs).toInt * (s.readReg rt).toInt ∧
        Completes (.mult rs rt) s (WritesHiLo h l s)) ∧
    (∀ (rs rt : Reg) (s : State), ∃ h l : Word,
      (h ++ l : BitVec 64).toNat = (s.readReg rs).toNat * (s.readReg rt).toNat ∧
        Completes (.multu rs rt) s (WritesHiLo h l s)) ∧
    (∀ (rs rt : Reg) (s t u : State), exec (.mult rs rt) s = .next t → exec (.multu rs rt) s = .next u → t.lo = u.lo)

/-- O14. The words of DIV are those of its row. For b = signed x[rt] not 0, unless a = signed x[rs] is -2^31 and b
is -1, DIV completes with HI and LO such that a = LO*b + HI, |HI| < |b|, and HI is 0 or has the sign of a.
Otherwise HI and LO are the free pair DivSpecial(signed, x[rs], x[rt]) (log 6). pc advances by 4, nothing else
changes, no exception. Quotient, remainder and rounding are decision D16 (log 21). -/
def Obligations.DivideSignedTruncates : Prop :=
  EncodedAs 0xFC00FFFF#32 0x0000001A#32 (fun w => .div (rsOf w) (rtOf w)) ∧
    ∀ (rs rt : Reg) (s : State),
      let a := (s.readReg rs).toInt
      let b := (s.readReg rt).toInt
      if b = 0 ∨ (a = -2147483648 ∧ b = -1) then
        Completes (.div rs rt) s
          (WritesHiLo (Config.divSpecial true (s.readReg rs) (s.readReg rt)).1
            (Config.divSpecial true (s.readReg rs) (s.readReg rt)).2 s)
      else
        ∃ h l : Word, a = l.toInt * b + h.toInt ∧ h.toInt.natAbs < b.natAbs ∧
          (h.toInt = 0 ∨ (h.toInt < 0 ↔ a < 0)) ∧ Completes (.div rs rt) s (WritesHiLo h l s)

/-- O15. The words of DIVU are those of its row. For b = unsigned x[rt] not 0, DIVU completes with HI and LO such
that unsigned x[rs] = LO*b + HI and HI < b. For b = 0, HI and LO are the free pair DivSpecial(unsigned, x[rs],
x[rt]) (log 6). pc advances by 4, nothing else changes, no exception. Which register holds the quotient is
decision D16 (log 21). -/
def Obligations.DivideUnsignedFloors : Prop :=
  EncodedAs 0xFC00FFFF#32 0x0000001B#32 (fun w => .divu (rsOf w) (rtOf w)) ∧
    ∀ (rs rt : Reg) (s : State),
      let a := (s.readReg rs).toNat
      let b := (s.readReg rt).toNat
      if b = 0 then
        Completes (.divu rs rt) s
          (WritesHiLo (Config.divSpecial false (s.readReg rs) (s.readReg rt)).1
            (Config.divSpecial false (s.readReg rs) (s.readReg rt)).2 s)
      else
        ∃ h l : Word, a = l.toNat * b + h.toNat ∧ h.toNat < b ∧
          Completes (.divu rs rt) s (WritesHiLo h l s)

/-- O16. The words of LB and LBU are those of their rows. With Addr = (x[base] + sext(offset)) mod 2^32 and lane k =
Addr mod 4: if the containing word is in DMEM, LB completes with bits 8k+7..8k of that word sign-extended in
x[rt], LBU with them zero-extended, pc + 4, nothing else changed (but the model's draw counter, log 5, if the
byte was never written); if not, both are the model fault UnmappedAccess(Addr). A write to register 0 is
discarded (decision D1, log 9; no rule is cited for that clause). -/
def Obligations.LoadByteFromItsLane : Prop :=
  EncodedAs 0xFC000000#32 0x80000000#32 (fun w => .lb (rtOf w) (immOf w) (rsOf w)) ∧
    EncodedAs 0xFC000000#32 0x90000000#32 (fun w => .lbu (rtOf w) (immOf w) (rsOf w)) ∧
    ∀ (rt base : Reg) (offset : Half) (s : State),
      let addr := s.readReg base + offset.signExtend 32
      let b : Byte := (memword s addr).extractLsb' (8 * (addr.toNat % 4)) 8
      if s.cfg.mapsData addr then
        Completes (.lb rt offset base) s (Loads rt addr 1 (b.signExtend 32) s) ∧
          Completes (.lbu rt offset base) s (Loads rt addr 1 (b.zeroExtend 32) s)
      else
        exec (.lb rt offset base) s = .fault (.unmappedAccess addr) ∧
          exec (.lbu rt offset base) s = .fault (.unmappedAccess addr)

/-- O17. The words of LH and LHU are those of their rows. With Addr = (x[base] + sext(offset)) mod 2^32: if Addr is
odd, both enter AddressError(load, Addr), mapped or not, and change nothing but CP0 and pc; else, if the
containing word is in DMEM, LH completes with bits 8k+15..8k of it (k = Addr mod 4, 0 or 2) sign-extended in
x[rt], LHU with them zero-extended, pc + 4, nothing else changed (but the draw counter, log 5); else both are
the model fault UnmappedAccess(Addr). A write to register 0 is discarded (decision D1, log 9; no rule is cited
for that clause). The EPC of a fault is the open parameter of R227 (decision D11, log 16). -/
def Obligations.LoadHalfwordFromItsLane : Prop :=
  EncodedAs 0xFC000000#32 0x84000000#32 (fun w => .lh (rtOf w) (immOf w) (rsOf w)) ∧
    EncodedAs 0xFC000000#32 0x94000000#32 (fun w => .lhu (rtOf w) (immOf w) (rsOf w)) ∧
    ∀ (rt base : Reg) (offset : Half) (s : State),
      let addr := s.readReg base + offset.signExtend 32
      let h : Half := (memword s addr).extractLsb' (8 * (addr.toNat % 4)) 16
      if addr.toNat % 2 ≠ 0 then
        Completes (.lh rt offset base) s
            (Enters (.addressError .load addr) (s.pc + faultOffset s.cfg.faultEpcOffset) s) ∧
          Completes (.lhu rt offset base) s
            (Enters (.addressError .load addr) (s.pc + faultOffset s.cfg.faultEpcOffset) s)
      else if s.cfg.mapsData addr then
        Completes (.lh rt offset base) s (Loads rt addr 2 (h.signExtend 32) s) ∧
          Completes (.lhu rt offset base) s (Loads rt addr 2 (h.zeroExtend 32) s)
      else
        exec (.lh rt offset base) s = .fault (.unmappedAccess addr) ∧
          exec (.lhu rt offset base) s = .fault (.unmappedAccess addr)

/-- O18. The words of LW are those of its row. With Addr = (x[base] + sext(offset)) mod 2^32: if Addr is not a
multiple of 4, LW enters AddressError(load, Addr), mapped or not, and changes nothing but CP0 and pc; else, if
the word is in DMEM, it completes with that word in x[rt], pc + 4, nothing else changed (but the draw counter,
log 5); else it is the model fault UnmappedAccess(Addr). A write to register 0 is discarded (decision D1, log 9;
no rule is cited for that clause). The EPC of a fault is the open parameter of R227 (decision D11, log 16). -/
def Obligations.LoadWordOrAddressError : Prop :=
  EncodedAs 0xFC000000#32 0x8C000000#32 (fun w => .lw (rtOf w) (immOf w) (rsOf w)) ∧
    ∀ (rt base : Reg) (offset : Half) (s : State),
      let addr := s.readReg base + offset.signExtend 32
      if addr.toNat % 4 ≠ 0 then
        Completes (.lw rt offset base) s
          (Enters (.addressError .load addr) (s.pc + faultOffset s.cfg.faultEpcOffset) s)
      else if s.cfg.mapsData addr then
        Completes (.lw rt offset base) s (Loads rt addr 4 (memword s addr) s)
      else exec (.lw rt offset base) s = .fault (.unmappedAccess addr)

/-- O19. The words of SB are those of its row. With Addr = (x[base] + sext(offset)) mod 2^32: if the containing word
is in DMEM, SB completes: the byte at Addr reads as bits 7..0 of x[rt], every other byte of memory reads as
before, pc advances by 4 and nothing else changes; if not, it is the model fault UnmappedAccess(Addr) (decision
D4, log 12). That the address wraps is decision D7 (log 15). -/
def Obligations.StoreByteStoresLowByte : Prop :=
  EncodedAs 0xFC000000#32 0xA0000000#32 (fun w => .sb (rtOf w) (immOf w) (rsOf w)) ∧
    ∀ (rt base : Reg) (offset : Half) (s : State),
      let addr := s.readReg base + offset.signExtend 32
      if s.cfg.mapsData addr then
        Completes (.sb rt offset base) s (StoresBytes addr 1 (s.readReg rt) s)
      else exec (.sb rt offset base) s = .fault (.unmappedAccess addr)

/-- O20. The words of SH are those of its row. With Addr = (x[base] + sext(offset)) mod 2^32: if Addr is odd, SH
enters AddressError(store, Addr), mapped or not, and changes nothing but CP0 and pc; else, if the containing
word is in DMEM, the byte at Addr reads as bits 7..0 of x[rt] and that at Addr + 1 as bits 15..8, every other
byte as before, pc + 4, nothing else changed; else it is the model fault UnmappedAccess(Addr). The EPC of a
fault is the open parameter of R227 (decision D11, log 16). -/
def Obligations.StoreHalfwordOrAddressError : Prop :=
  EncodedAs 0xFC000000#32 0xA4000000#32 (fun w => .sh (rtOf w) (immOf w) (rsOf w)) ∧
    ∀ (rt base : Reg) (offset : Half) (s : State),
      let addr := s.readReg base + offset.signExtend 32
      if addr.toNat % 2 ≠ 0 then
        Completes (.sh rt offset base) s
          (Enters (.addressError .store addr) (s.pc + faultOffset s.cfg.faultEpcOffset) s)
      else if s.cfg.mapsData addr then
        Completes (.sh rt offset base) s (StoresBytes addr 2 (s.readReg rt) s)
      else exec (.sh rt offset base) s = .fault (.unmappedAccess addr)

/-- O21. The words of SW are those of its row. With Addr = (x[base] + sext(offset)) mod 2^32: if Addr is not a
multiple of 4, SW enters AddressError(store, Addr), mapped or not (decision D21, log 25), and changes nothing
but CP0 and pc; else, if the word is in DMEM, the bytes at Addr to Addr + 3 read as bits 7..0 to 31..24 of
x[rt], every other byte as before, pc + 4, nothing else changed; else it is the model fault
UnmappedAccess(Addr). The EPC of a fault is the open parameter of R227 (decision D11, log 16). -/
def Obligations.StoreWordOrAddressError : Prop :=
  EncodedAs 0xFC000000#32 0xAC000000#32 (fun w => .sw (rtOf w) (immOf w) (rsOf w)) ∧
    ∀ (rt base : Reg) (offset : Half) (s : State),
      let addr := s.readReg base + offset.signExtend 32
      if addr.toNat % 4 ≠ 0 then
        Completes (.sw rt offset base) s
          (Enters (.addressError .store addr) (s.pc + faultOffset s.cfg.faultEpcOffset) s)
      else if s.cfg.mapsData addr then
        Completes (.sw rt offset base) s (StoresBytes addr 4 (s.readReg rt) s)
      else exec (.sw rt offset base) s = .fault (.unmappedAccess addr)

/-- O22. The words of BEQ and BNE are those of their rows. In every state BEQ completes with pc = pc + 4 + 4 *
signed offset modulo 2^32 if x[rs] = x[rt], else pc + 4; BNE the other way round; nothing else changes. That the
next instruction executed is the one at the target is decision D2 (log 10), that the address wraps D7 (log 15). -/
def Obligations.BranchesOnEquality : Prop :=
  EncodedAs 0xFC000000#32 0x10000000#32 (fun w => .beq (rsOf w) (rtOf w) (immOf w)) ∧
    EncodedAs 0xFC000000#32 0x14000000#32 (fun w => .bne (rsOf w) (rtOf w) (immOf w)) ∧
    ∀ (rs rt : Reg) (offset : Half) (s : State),
      let target := s.pc + 4#32 + BitVec.ofInt 32 (4 * offset.toInt)
      Completes (.beq rs rt offset) s
          (WritesPc (if s.readReg rs = s.readReg rt then target else s.pc + 4#32) s) ∧
        Completes (.bne rs rt offset) s
          (WritesPc (if s.readReg rs = s.readReg rt then s.pc + 4#32 else target) s)

/-- O23. The words of BLEZ, BGTZ, BLTZ and BGEZ are those of their rows. In every state each completes with pc = pc
+ 4 + 4 * signed offset modulo 2^32 if signed x[rs] is at most, greater than, less than, or at least 0
respectively, else pc + 4; nothing else changes. That the next instruction executed is the one at the target is
decision D2 (log 10), that the address wraps D7 (log 15). -/
def Obligations.BranchesOnSign : Prop :=
  EncodedAs 0xFC1F0000#32 0x18000000#32 (fun w => .blez (rsOf w) (immOf w)) ∧
    EncodedAs 0xFC1F0000#32 0x1C000000#32 (fun w => .bgtz (rsOf w) (immOf w)) ∧
    EncodedAs 0xFC1F0000#32 0x04000000#32 (fun w => .bltz (rsOf w) (immOf w)) ∧
    EncodedAs 0xFC1F0000#32 0x04010000#32 (fun w => .bgez (rsOf w) (immOf w)) ∧
    ∀ (rs : Reg) (offset : Half) (s : State),
      let target := s.pc + 4#32 + BitVec.ofInt 32 (4 * offset.toInt)
      let a := (s.readReg rs).toInt
      Completes (.blez rs offset) s (WritesPc (if a ≤ 0 then target else s.pc + 4#32) s) ∧
        Completes (.bgtz rs offset) s (WritesPc (if 0 < a then target else s.pc + 4#32) s) ∧
        Completes (.bltz rs offset) s (WritesPc (if a < 0 then target else s.pc + 4#32) s) ∧
        Completes (.bgez rs offset) s (WritesPc (if 0 ≤ a then target else s.pc + 4#32) s)

/-- O24. The words of J and JAL are those of their rows. In every state both complete with pc = (the address pc + 4
with its low 28 bits cleared) + 4 * instr_index; J changes nothing else; JAL also writes pc + 4 to x[31]. The
composition of JumpAddr is decision D22 (log 26), the absence of a delay slot D2 (log 10). -/
def Obligations.JumpsWithinRegion : Prop :=
  EncodedAs 0xFC000000#32 0x08000000#32 (fun w => .j (indexOf w)) ∧
    EncodedAs 0xFC000000#32 0x0C000000#32 (fun w => .jal (indexOf w)) ∧
    ∀ (index : BitVec 26) (s : State), ∃ target : Word,
      target.toNat = (s.pc + 4#32).toNat / 268435456 * 268435456 + index.toNat * 4 ∧
        Completes (.j index) s (WritesPc target s) ∧ Completes (.jal index) s (Links 31#5 target s)

/-- O25. The words of JR are those of its row. In every state JR completes with pc = x[rs], any 32-bit value, and
nothing else changed. That a value of any alignment is copied is decision D6 (log 14), the absence of a delay
slot D2 (log 10). -/
def Obligations.JumpRegisterCopiesAnyValue : Prop :=
  EncodedAs 0xFC1FFFFF#32 0x00000008#32 (fun w => .jr (rsOf w)) ∧
    ∀ (rs : Reg) (s : State), Completes (.jr rs) s (WritesPc (s.readReg rs) s)

/-- O26. The words of JALR are those of its row. In every state JALR completes with pc = the value x[rs] held
before, x[rd] = pc + 4, and nothing else changed. For rd = rs that is decision D19 (log 23). A write to register
0 is discarded (decision D1, log 9; no rule is cited for that clause). -/
def Obligations.JumpAndLinkRegisterReadsFirst : Prop :=
  EncodedAs 0xFC1F07FF#32 0x00000009#32 (fun w => .jalr (rdOf w) (rsOf w)) ∧
    ∀ (rd rs : Reg) (s : State), Completes (.jalr rd rs) s (Links rd (s.readReg rs) s)

/-- O27. The words of MFHI and MFLO are those of their rows. In every state MFHI completes with x[rd] = HI, MFLO
with x[rd] = LO, pc advanced by 4, and nothing else, HI and LO among it, changed. A write to register 0 is
discarded (decision D1, log 9; no rule is cited for that clause). -/
def Obligations.MoveFromHiAndLo : Prop :=
  EncodedAs 0xFFFF07FF#32 0x00000010#32 (fun w => .mfhi (rdOf w)) ∧
    EncodedAs 0xFFFF07FF#32 0x00000012#32 (fun w => .mflo (rdOf w)) ∧
    ∀ (rd : Reg) (s : State),
      Completes (.mfhi rd) s (WritesReg rd s.hi s) ∧ Completes (.mflo rd) s (WritesReg rd s.lo s)

/-- O28. The words of MTHI and MTLO are those of their rows (their zero fields are recovered by R95, log 29). In
every state MTHI completes with HI = x[rs] and LO as before, MTLO with LO = x[rs] and HI as before, pc advanced
by 4 and nothing else changed. -/
def Obligations.MoveToHiAndLo : Prop :=
  EncodedAs 0xFC1FFFFF#32 0x00000011#32 (fun w => .mthi (rsOf w)) ∧
    EncodedAs 0xFC1FFFFF#32 0x00000013#32 (fun w => .mtlo (rsOf w)) ∧
    ∀ (rs : Reg) (s : State),
      Completes (.mthi rs) s (WritesHiLo (s.readReg rs) s.lo s) ∧
        Completes (.mtlo rs) s (WritesHiLo s.hi (s.readReg rs) s)

/-- O29. The words of MFC0 and MTC0 are those of their rows. For every cell number and in every state (there is one
mode, decision D14, log 20) MFC0 completes with x[rt] = cp0[rd] and MTC0 with cp0[rd] = x[rt], every other cell
as before; pc advances by 4 and nothing else changes. That every cell is plain storage is decision D26 (log 30).
A write to register 0 is discarded (decision D1, log 9; no rule is cited for that clause). -/
def Obligations.MoveToAndFromCp0 : Prop :=
  EncodedAs 0xFFE007FF#32 0x40000000#32 (fun w => .mfc0 (rtOf w) (rdOf w)) ∧
    EncodedAs 0xFFE007FF#32 0x40800000#32 (fun w => .mtc0 (rtOf w) (rdOf w)) ∧
    ∀ (rt rd : Reg) (s : State),
      Completes (.mfc0 rt rd) s (WritesReg rt (s.readCp0 rd) s) ∧
        Completes (.mtc0 rt rd) s (WritesCp0 rd (s.readReg rt) s)

/-- O30. The words of ERET are its one word. In every state ERET completes with pc = epc, epc kept, the CP0 file as
Cp0OnReturn leaves it, and no general register, HI, LO or memory changed. Under M32, if EPC is not cell 12, that
clears bit 1 of cp0[12] and keeps every other bit and cell; under the identity policy no cell changes. M32 is
decision D10 (log 7), that a return keeps the EPC cell is log 8, that ERET makes no check is D12 (log 18). -/
def Obligations.EretReturnsToEpc : Prop :=
  EncodedAs 0xFFFFFFFF#32 0x42000018#32 (fun _ => .eret) ∧
    ∀ s : State, Completes .eret s fun t =>
      Returns s t ∧
        (s.cfg.cp0Policy = .m32 → s.cfg.epcIdx ≠ 12#5 →
          (∀ k < 32, (t.readCp0 12#5).getLsbD k = (decide (k ≠ 1) && (s.readCp0 12#5).getLsbD k)) ∧
            ∀ c, c ≠ 12#5 → t.readCp0 c = s.readCp0 c) ∧
        (s.cfg.cp0Policy = .identity → SameCp0 s t)

/-- O31. The words of BREAK are those of its row, for every value of its 20-bit code. In every state BREAK completes
by entering Breakpoint: epc = pc + 4, the other CP0 cells as Cp0OnEntry leaves them, pc = EXC_VECTOR, and no
general register, HI, LO or memory changed. That the code has no effect is log 37 (R85), that a breakpoint
inside a handler is taken alike is decision D12 (log 18), the open CP0 processing is D10 (log 7). -/
def Obligations.BreakEntersBreakpoint : Prop :=
  EncodedAs 0xFC00003F#32 0x0000000D#32 (fun w => .brk (codeOf w)) ∧
    ∀ (code : BitVec 20) (s : State), Completes (.brk code) s (Enters .breakpoint (s.pc + 4#32) s)

/-- O32. The words of SYSCALL are those of its row, for every value of its 20-bit code (its code field is decision
D25, log 29). In every state SYSCALL completes by entering Syscall: epc = pc + 4, the other CP0 cells as
Cp0OnEntry leaves them, pc = EXC_VECTOR, and no general register, HI, LO or memory changed. -/
def Obligations.SyscallEntersSyscall : Prop :=
  EncodedAs 0xFC00003F#32 0x0000000C#32 (fun w => .syscall (codeOf w)) ∧
    ∀ (code : BitVec 20) (s : State), Completes (.syscall code) s (Enters .syscall (s.pc + 4#32) s)

/-- O33. For each of the four exceptions and every state, taking it leaves pc = EXC_VECTOR and epc = pc + 4 for
Breakpoint and Syscall, pc or pc + 4 as FAULT_EPC_OFFSET says for IntegerOverflow and AddressError, whatever
Cp0OnEntry does, also while a handler runs; registers, HI, LO and memory stay. That the faults use the same
sequence is decision D11 (log 16), one vector D8, nesting D12 (log 18). -/
def Obligations.ExceptionEntrySavesPcAndVectors : Prop :=
  ∀ (e : Exc) (s : State),
    Enters e
      (match e, s.cfg.faultEpcOffset with
        | .breakpoint, _ => s.pc + 4#32
        | .syscall, _ => s.pc + 4#32
        | .integerOverflow, .zero => s.pc
        | .integerOverflow, .four => s.pc + 4#32
        | .addressError _ _, .zero => s.pc
        | .addressError _ _, .four => s.pc + 4#32)
      s (raise e s)

/-- O34. Under the policy M32 and for every exception and state, in every cell that is not EPC: cp0[13] bits 6..2
hold the cause code (4 AdEL, 5 AdES, 8 Sys, 9 Bp, 12 Ov), bit 31 is 0 and its other bits are as before; cp0[12]
bit 1 is 1 and its other bits are as before; cp0[8] holds the address on an AddressError and is as before
otherwise; every other cell is as before. M32 is the spec's decision D10 (log 7). -/
def Obligations.M32EntryRecordsCause : Prop :=
  ∀ (e : Exc) (s : State), s.cfg.cp0Policy = .m32 →
    let t := raise e s
    let code : Nat := match e with
      | .addressError .load _ => 4
      | .addressError .store _ => 5
      | .syscall => 8
      | .breakpoint => 9
      | .integerOverflow => 12
    (s.cfg.epcIdx ≠ 13#5 → ∀ k < 32, (t.readCp0 13#5).getLsbD k =
        if 2 ≤ k ∧ k ≤ 6 then code.testBit (k - 2)
        else if k = 31 then false else (s.readCp0 13#5).getLsbD k) ∧
      (s.cfg.epcIdx ≠ 12#5 → ∀ k < 32, (t.readCp0 12#5).getLsbD k =
        if k = 1 then true else (s.readCp0 12#5).getLsbD k) ∧
      (s.cfg.epcIdx ≠ 8#5 → t.readCp0 8#5 =
        match e with
        | .addressError _ addr => addr
        | _ => s.readCp0 8#5) ∧
      ∀ c, c ≠ s.cfg.epcIdx → c ≠ 13#5 → c ≠ 12#5 → c ≠ 8#5 → t.readCp0 c = s.readCp0 c

/-- O35. For every instruction and state: where the table of R220 gives an exception (overflow of the exact sum or
difference in ADD, ADDI, SUB; an address that is no multiple of the access size in LH, LHU, LW, SH, SW; always
in BREAK and SYSCALL), exec answers exactly the state after that exception entry; where it gives none, a next
state has the CP0 file unchanged unless the instruction is MTC0 or ERET. The rows of SUB and SW are decision D21
(log 25), the entry sequence and the EPC of the two faults D8 and D11 (log 16); that CP0 is otherwise unchanged
is read from the pseudocode of each rule. -/
def Obligations.ExceptionsAreThoseOfTheTable : Prop :=
  ∀ (i : Instr) (s : State),
    match raisedBy i s with
    | some e => exec i s = .next (raise e s)
    | none => ∀ t, exec i s = .next t → (∀ rt rd, i ≠ .mtc0 rt rd) → i ≠ .eret → t.cp0 = s.cp0

/-- O36. For each of the 55 instructions and all operand values, decoding its encoded word gives exactly that
instruction; so does decoding the four bytes of the word. Every instruction is well formed by the types of its
fields. (The spec marks R93 as derived.) -/
def Obligations.DecodeOfEncodeIsIdentity : Prop :=
  ∀ i : Instr, decodeWord (encode i) = .ok i ∧ decodeBytes (bytesOfWord (encode i)) = .ok i

/-- O37. For every 32-bit word w and instruction i, if w decodes to i then the encoding of i is w: no bit of an
accepted word is ignored, and no two words decode to the same instruction. -/
def Obligations.EncodeOfDecodeIsIdentity : Prop :=
  ∀ (w : Word) (i : Instr), decodeWord w = .ok i → encode i = w

/-- O38. For every 32-bit word w: it decodes to an instruction with mnemonic m exactly when a row of the opcode
table with mnemonic m matches (w AND mask = match); hence a word that matches no row is rejected, and decoding
is total. -/
def Obligations.DecoderAcceptsTheTableWords : Prop :=
  ∀ (w : Word) (m : Mnemonic),
    (∃ i, decodeWord w = .ok i ∧ i.mnemonic = m) ↔ ∃ r ∈ opcodeTable, r.mnemonic = m ∧ r.matchesWord w = true

/-- O39. A word decodes to no instruction if its primary opcode is none of the listed 25; if it has opcode 000001
and bits 20..16 are neither 00000 nor 00001; if it has opcode 010000 and is neither MFC0 nor MTC0 with bits
10..0 zero nor the word 0x42000018. The two REGIMM selectors select BLTZ and BGEZ, the two COP0 selectors MFC0
and MTC0, and 0x42000018 is ERET. The layout of MTC0 and the word of ERET are decision D25 (log 29), the fixed
zero fields and the refusal of other words D3 (log 11). -/
def Obligations.UnlistedSelectorsSelectNothing : Prop :=
  (∀ w : Word, opcodeOf w ∉ [0x00#6, 0x01#6, 0x02#6, 0x03#6, 0x04#6, 0x05#6, 0x06#6, 0x07#6, 0x08#6, 0x09#6,
      0x0A#6, 0x0B#6, 0x0C#6, 0x0D#6, 0x0E#6, 0x0F#6, 0x10#6, 0x20#6, 0x21#6, 0x23#6, 0x24#6, 0x25#6, 0x28#6,
      0x29#6, 0x2B#6] → ∀ i, decodeWord w ≠ .ok i) ∧
    (∀ w : Word, opcodeOf w = 0x01#6 →
      (rtOf w = 0b00000#5 → decodeWord w = .ok (.bltz (rsOf w) (immOf w))) ∧
        (rtOf w = 0b00001#5 → decodeWord w = .ok (.bgez (rsOf w) (immOf w))) ∧
        (rtOf w ≠ 0b00000#5 → rtOf w ≠ 0b00001#5 → ∀ i, decodeWord w ≠ .ok i)) ∧
    (∀ w : Word, opcodeOf w = 0x10#6 →
      (rsOf w = 0b00000#5 → w.extractLsb' 0 11 = 0#11 → decodeWord w = .ok (.mfc0 (rtOf w) (rdOf w))) ∧
        (rsOf w = 0b00100#5 → w.extractLsb' 0 11 = 0#11 → decodeWord w = .ok (.mtc0 (rtOf w) (rdOf w))) ∧
        (w = 0x42000018#32 → decodeWord w = .ok .eret) ∧
        (w ≠ 0x42000018#32 → (rsOf w ≠ 0b00000#5 ∧ rsOf w ≠ 0b00100#5 ∨ w.extractLsb' 0 11 ≠ 0#11) →
          ∀ i, decodeWord w ≠ .ok i))

/-- O40. For every 32-bit word, two rows of the opcode table that both match it are the same row. (The spec marks
R93 as derived.) -/
def Obligations.OpcodeRowsAreDisjoint : Prop :=
  ∀ (w : Word), ∀ r ∈ opcodeTable, ∀ q ∈ opcodeTable, r.matchesWord w = true → q.matchesWord w = true → r = q

/-- O41. Nine words written out from the spec's encodings (add, addi, sh, lb, beq, jr, mfhi, mfc0, break) decode to
those instructions with those operands. A sanity check only. -/
def Obligations.SampleWordsDecodeAsPrinted : Prop :=
  decodeWord 0x02538820#32 = .ok (.add 17#5 18#5 19#5) ∧
    decodeWord 0x2251FFFF#32 = .ok (.addi 17#5 18#5 0xFFFF#16) ∧
    decodeWord 0xA6030018#32 = .ok (.sh 3#5 24#16 16#5) ∧
    decodeWord 0x82030003#32 = .ok (.lb 3#5 3#16 16#5) ∧
    decodeWord 0x1232FFFE#32 = .ok (.beq 17#5 18#5 0xFFFE#16) ∧
    decodeWord 0x03E00008#32 = .ok (.jr 31#5) ∧
    decodeWord 0x00008810#32 = .ok (.mfhi 17#5) ∧
    decodeWord 0x40110800#32 = .ok (.mfc0 17#5 1#5) ∧
    decodeWord 0x0048D14D#32 = .ok (.brk 0x12345#20)

/-- O42. For every state whose pc is a multiple of 4 and whose four bytes of program text at pc, the lowest address
first, are the bytes of a word that decodes to i: step answers exactly what exec of i answers at that state;
nothing is added around exec. The byte layout of the text is decision D5 (log 13). -/
def Obligations.StepRunsTheDecodedInstruction : Prop :=
  ∀ (s : State) (w : Word) (i : Instr), s.pc.toNat % 4 = 0 →
    (∀ k < 4, Memory.read s.cfg.imem (s.pc.toNat + k) = some (w.extractLsb' (8 * k) 8)) →
    decodeWord w = .ok i → step s = exec i s

/-- O43. For every state: if pc is not a multiple of 4, step is the model fault MisalignedFetch(pc); else, if one of
the four bytes at pc is not in the program text, FetchUnmapped(pc); else, if the word w there decodes to no
instruction, IllegalInstruction(pc, w). In no case is there a next state. These faults are decisions D3, D4, D6,
and their order D23 (log 11, 12, 14, 27). -/
def Obligations.FetchFailuresFaultInOrder : Prop :=
  ∀ s : State,
    (s.pc.toNat % 4 ≠ 0 → step s = .fault (.misalignedFetch s.pc)) ∧
      (s.pc.toNat % 4 = 0 → (∃ k < 4, Memory.read s.cfg.imem (s.pc.toNat + k) = none) →
        step s = .fault (.fetchUnmapped s.pc)) ∧
      (s.pc.toNat % 4 = 0 → ∀ w : Word,
        (∀ k < 4, Memory.read s.cfg.imem (s.pc.toNat + k) = some (w.extractLsb' (8 * k) 8)) →
        (∀ i, decodeWord w ≠ .ok i) → step s = .fault (.illegalInstruction s.pc w))

/-- O44. For every configuration, the model's reset state is one that reset may leave: it carries that
configuration, pc is RESET_PC and no byte of data memory is written; and in every such state x[0] reads 0.
State.reset is the reset state of the test configuration T, pc 0x3000 (model's choice, log 3). Nothing is
claimed of the other registers, whose reset values are the model's (log 2). -/
def Obligations.ResetSetsPcOnly : Prop :=
  (∀ cfg : Config, IsAfterReset cfg (State.resetWith cfg)) ∧
    (∀ (cfg : Config) (s : State), IsAfterReset cfg s →
      s.pc = cfg.resetPc ∧ s.readReg 0#5 = 0#32 ∧ ∀ a, Memory.read s.dmem a = none) ∧
    State.reset = State.resetWith resetConfig ∧ State.reset.pc = 0x00003000#32

/-- O45. Every state that reset may leave, under a configuration whose program text is in canonical form, satisfies
the invariant (canonical memories, data only inside DMEM); State.reset does. -/
def Obligations.InvariantHoldsAtReset : Prop :=
  (∀ (cfg : Config) (s : State), Memory.wf cfg.imem = true → IsAfterReset cfg s → Inv s) ∧ Inv State.reset

/-- O46. For every configuration and initial values. If EXC_VECTOR and RESET_PC are multiples of 4, IMEM and DMEM
are made of whole words at multiples of 4 and disjoint, RESET_PC lies in IMEM, and the initial data lies inside
DMEM, the launch answers a state with that configuration, pc = RESET_PC, the supplied registers, CP0 cells and
data, in which the invariant holds and whose first fetch is aligned and mapped. If one of these fails, it is
refused. (EPC_IDX and FAULT_EPC_OFFSET are in range by their types. That initial data outside DMEM is refused,
and when the check is made, is the model's choice, log 38; the canonical byte lists are the model's form, log 12
and 13.) -/
def Obligations.LaunchRefusesBadConfigurations : Prop :=
  ∀ (cfg : Config) (v : LaunchValues),
    (LaunchMeets cfg v → ∃ s, launch cfg v = .next s ∧
      s.cfg = cfg ∧ s.pc = cfg.resetPc ∧ s.gpr = v.gpr ∧ s.hi = v.hi ∧ s.lo = v.lo ∧ s.cp0 = v.cp0 ∧ s.dmem = v.dmem ∧
        Inv s ∧ s.pc.toNat % 4 = 0 ∧ ∀ k < 4, Memory.read cfg.imem (s.pc.toNat + k) ≠ none) ∧
      (¬ LaunchMeets cfg v → launch cfg v = .refused .badConfiguration)

/-- O47. For every state in which the invariant holds (both memories are lists of strictly rising addresses, and
every written data byte lies in a word of DMEM), if step answers a next state, the invariant holds there. -/
def Obligations.EveryStepKeepsTheInvariant : Prop :=
  ∀ s t : State, Inv s → step s = .next t → Inv t

/-- O48. For every state, if step answers a next state, its configuration, the program text IMEM with it, is the one
before; and the same for every instruction executed directly. (Decision D4, log 1 and 12.) -/
def Obligations.ProgramTextNeverChanges : Prop :=
  (∀ s t : State, step s = .next t → t.cfg = s.cfg) ∧
    ∀ (i : Instr) (s t : State), exec i s = .next t → t.cfg = s.cfg

/-- O49. For every instruction and state: a next state differs from the state before in the destination register of
R23 at most; and from two states that differ only in general registers the instruction does not list as sources,
the outcomes are both next states or both the same fault, and the next states differ in general registers only,
each of which has the same value in both or is as it was in each. -/
def Obligations.RegistersReadAndWrittenAsListed : Prop :=
  (∀ (i : Instr) (s t : State), exec i s = .next t → ∀ r, destReg i ≠ some r → t.readReg r = s.readReg r) ∧
    ∀ (i : Instr) (s u : State), u = { s with gpr := u.gpr } →
      (∀ r ∈ sourceRegs i, u.readReg r = s.readReg r) →
      AgreeButGpr (exec i s) (exec i u) ∧
        ∀ s' u', exec i s = .next s' → exec i u = .next u' →
          ∀ r, u'.readReg r = s'.readReg r ∨ (s'.readReg r = s.readReg r ∧ u'.readReg r = u.readReg r)

/-- O50. For every instruction and state: HI is unchanged unless the instruction is MULT, MULTU, DIV, DIVU or MTHI,
and LO unless it is MULT, MULTU, DIV, DIVU or MTLO; but for MFHI, changing HI beforehand changes nothing of the
outcome other than HI, and but for MFLO the same of LO; and an instruction that writes HI, or LO, leaves the
same value whatever it held. MTHI completes with HI = x[rs] and LO as before, MTLO the other way round; MFHI and
MFLO complete with HI and LO in x[rd], for rd other than 0 (a destination of 0 is the subject of
MoveFromHiAndLo, not of this statement). -/
def Obligations.HiAndLoReadAndWrittenAsListed : Prop :=
  (∀ (i : Instr) (s t : State), exec i s = .next t →
      (writesHi i = false → t.hi = s.hi) ∧ (writesLo i = false → t.lo = s.lo)) ∧
    (∀ (i : Instr) (s : State) (h : Word), (∀ rd, i ≠ .mfhi rd) →
      AgreeButHi (exec i s) (exec i (s.setHi h)) ∧ (writesHi i = true → exec i (s.setHi h) = exec i s)) ∧
    (∀ (i : Instr) (s : State) (l : Word), (∀ rd, i ≠ .mflo rd) →
      AgreeButLo (exec i s) (exec i (s.setLo l)) ∧ (writesLo i = true → exec i (s.setLo l) = exec i s)) ∧
    (∀ (rs : Reg) (s : State),
      Completes (.mthi rs) s (WritesHiLo (s.readReg rs) s.lo s) ∧
        Completes (.mtlo rs) s (WritesHiLo s.hi (s.readReg rs) s)) ∧
    (∀ (rd : Reg) (s : State), rd ≠ 0#5 →
      Completes (.mfhi rd) s (WritesReg rd s.hi s) ∧ Completes (.mflo rd) s (WritesReg rd s.lo s))

/-- O51. For every instruction and state with a next state: every data byte outside the bytes that a store writes
(1, 2 or 4 from its effective address; none for any other instruction) reads as before. And for every
instruction that is no load, the stores among them, replacing the data memory beforehand changes nothing of the
outcome but the data memory: what it does not store stays as replaced, and each byte after it is either the same
in both or as it was in each. That the effective address wraps is decision D7 (log 15). -/
def Obligations.MemoryReachedByLoadsAndStoresOnly : Prop :=
  (∀ (i : Instr) (s t : State), exec i s = .next t → ∀ a,
      (∀ base offset n, storeSpan i = some (base, offset, n) →
        a < (effAddr base offset s).toNat ∨ (effAddr base offset s).toNat + n ≤ a) →
      Memory.read t.dmem a = Memory.read s.dmem a) ∧
    ∀ (i : Instr) (s : State) (m : Memory), readsData i = false →
      AgreeButDmem (exec i s) (exec i (s.setDmem m)) ∧
        ∀ t, exec i (s.setDmem m) = .next t → (accessesData i = false → t.dmem = m) ∧
          ∀ u, exec i s = .next u → ∀ a, Memory.read t.dmem a = Memory.read u.dmem a ∨
            (Memory.read t.dmem a = Memory.read m a ∧ Memory.read u.dmem a = Memory.read s.dmem a)

/-- O52. For every instruction but MFC0, every state and every other CP0 file (for ERET, every one that holds the
same EPC): the outcomes from the two CP0 files are both next states that differ in CP0 only, or the same fault.
So no status bit masks, enables or redirects anything, and there is one mode (decision D14, log 20; log 7 and
30). -/
def Obligations.Cp0DoesNotSteerExecution : Prop :=
  ∀ (i : Instr) (s : State) (f : Cp0File), (∀ rt rd, i ≠ .mfc0 rt rd) →
    (i = .eret → (s.setCp0 f).epc = s.epc) →
    AgreeButCp0 (exec i s) (exec i (s.setCp0 f))

/-- O53. For every state whose pc and EXC_VECTOR are multiples of 4 and every instruction other than JR, JALR and
ERET, a next state has a pc that is a multiple of 4. (R26 states this of branches, J and JAL; that EXC_VECTOR is
aligned is a constraint on the configuration.) -/
def Obligations.PcStaysAlignedUnlessCopied : Prop :=
  ∀ (i : Instr) (s t : State), s.pc.toNat % 4 = 0 → s.cfg.excVector.toNat % 4 = 0 → copiesPc i = false →
    exec i s = .next t → t.pc.toNat % 4 = 0

/-- O54. For every register, offset and state, and SB, SH and SW where the access is aligned: if the containing word
of the effective address is in DMEM, the store completes, each bit of that word in the stored lanes is the
corresponding bit of x[rt], each other bit of it is as before, and every word at another word address is as
before; if not, it is the model fault UnmappedAccess (decision D4, log 12). That the address wraps is decision
D7 (log 15). (The model's byte list against the words of R56; log 34.) -/
def Obligations.WordViewOfStores : Prop :=
  ∀ (i : Instr) (rt base : Reg) (offset : Half) (n : Nat) (s : State),
    (i = .sb rt offset base ∧ n = 1 ∨ i = .sh rt offset base ∧ n = 2 ∨ i = .sw rt offset base ∧ n = 4) →
    (s.readReg base + offset.signExtend 32).toNat % n = 0 →
    let addr := s.readReg base + offset.signExtend 32
    let k := addr.toNat % 4
    if s.cfg.mapsData addr then
      Completes i s fun t =>
        (∀ b < 32, (memword t addr).getLsbD b =
          if 8 * k ≤ b ∧ b < 8 * k + 8 * n then (s.readReg rt).getLsbD (b - 8 * k) else (memword s addr).getLsbD b) ∧
        ∀ other : Word, containingWord other ≠ containingWord addr → memword t other = memword s other
    else exec i s = .fault (.unmappedAccess addr)

/-- O55. For every state, even of an unmapped rest, and every word-aligned mapped address held in a base register,
after a completed SW of v there: LBU at offsets 0..3 gives bits 8k+7..8k of v and LHU at offsets 0 and 2 bits
8k+15..8k; and after a completed SB of c at offset k (0..3) on top of that, LW gives v with bits 8k+7..8k
replaced by the low byte of c. (R53, which the spec marks as derived; it generalises its worked example.) -/
def Obligations.MixedWidthAccessesSeeTheLanes : Prop :=
  ∀ (base src byteSrc : Reg) (s : State),
    (s.readReg base).toNat % 4 = 0 → s.cfg.mapsData (s.readReg base) = true →
    Completes (.sw src 0#16 base) s fun t =>
      let v := s.readReg src
      (∀ k < 4, ∀ rt : Reg, rt ≠ 0#5 → Completes (.lbu rt (BitVec.ofNat 16 k) base) t fun u =>
          (u.readReg rt).toNat = v.toNat / 2 ^ (8 * k) % 256) ∧
        (∀ k < 2, ∀ rt : Reg, rt ≠ 0#5 → Completes (.lhu rt (BitVec.ofNat 16 (2 * k)) base) t fun u =>
          (u.readReg rt).toNat = v.toNat / 2 ^ (16 * k) % 65536) ∧
        ∀ k < 4, Completes (.sb byteSrc (BitVec.ofNat 16 k) base) t fun u =>
          ∀ rt : Reg, rt ≠ 0#5 → Completes (.lw rt 0#16 base) u fun w =>
            ∀ b < 32, (w.readReg rt).getLsbD b =
              if 8 * k ≤ b ∧ b < 8 * k + 8 then (s.readReg byteSrc).getLsbD (b - 8 * k) else v.getLsbD b

/-- O56. For every HALT predicate and state: if HALT holds the run is complete at once, whatever is at pc; if not,
with no step left it is still running, a step that faults makes it faulted, and a step to t makes a run of n + 1
steps the run of n steps from t; no run is refused; a run that has completed or faulted after n steps has the
same end at every larger bound; a completed run ends in a state where HALT holds; and a run that faults at some
bound completes at none. (HALT is the open parameter of decision D27, log 31.) -/
def Obligations.RunsEndAtHaltOrFault : Prop :=
  ∀ (halt : State → Bool) (s : State),
    (halt s = true → ∀ n, runTo halt n s = .completed s) ∧
      (halt s = false → runTo halt 0 s = .running s) ∧
      (halt s = false → ∀ f, step s = .fault f → ∀ n, runTo halt (n + 1) s = .faulted f) ∧
      (halt s = false → ∀ t, step s = .next t → ∀ n, runTo halt (n + 1) s = runTo halt n t) ∧
      (∀ n r, runTo halt n s ≠ .refused r) ∧
      (∀ n m t, n ≤ m → runTo halt n s = .completed t → runTo halt m s = .completed t ∧ halt t = true) ∧
      (∀ n m f, n ≤ m → runTo halt n s = .faulted f → runTo halt m s = .faulted f) ∧
      (∀ n m f t, runTo halt n s = .faulted f → runTo halt m s ≠ .completed t)

/-- O57. For every state and destinations other than register 0: MFHI and MFLO directly after MULT, MULTU, DIV,
DIVU, MTHI or MTLO read the new HI and LO (product; quotient and remainder, or the free pair DivSpecial, log 6;
the moved value), and a writer of HI or LO directly after MFHI or MFLO leaves the value moved; MFC0 and ERET
directly after MTC0 see the value moved, and after any exception entry the saved epc; ERET after BREAK or
SYSCALL resumes after the trap; ADDU directly after LB, LBU, LH, LHU or LW (aligned, mapped) reads the loaded
value. (Decision D18, log 22; division D16, log 21.) -/
def Obligations.ResultsAreVisibleToTheNextInstruction : Prop :=
  (∀ (rs rt rd : Reg) (s : State), rd ≠ 0#5 →
      NextReadsHiLo (.mthi rs) rd (s.readReg rs) s.lo s ∧ NextReadsHiLo (.mtlo rs) rd s.hi (s.readReg rs) s ∧
        (∃ h l : Word, (h ++ l : BitVec 64).toInt = (s.readReg rs).toInt * (s.readReg rt).toInt ∧
          NextReadsHiLo (.mult rs rt) rd h l s) ∧
        (∃ h l : Word, (h ++ l : BitVec 64).toNat = (s.readReg rs).toNat * (s.readReg rt).toNat ∧
          NextReadsHiLo (.multu rs rt) rd h l s) ∧
        (∃ h l : Word,
          (if (s.readReg rt).toInt = 0 ∨ ((s.readReg rs).toInt = -2147483648 ∧ (s.readReg rt).toInt = -1) then
            (h, l) = Config.divSpecial true (s.readReg rs) (s.readReg rt)
          else l.toInt = (s.readReg rs).toInt.tdiv (s.readReg rt).toInt ∧
            h.toInt = (s.readReg rs).toInt.tmod (s.readReg rt).toInt) ∧
          NextReadsHiLo (.div rs rt) rd h l s) ∧
        ∃ h l : Word,
          (if (s.readReg rt).toNat = 0 then (h, l) = Config.divSpecial false (s.readReg rs) (s.readReg rt)
          else l.toNat = (s.readReg rs).toNat / (s.readReg rt).toNat ∧
            h.toNat = (s.readReg rs).toNat % (s.readReg rt).toNat) ∧
          NextReadsHiLo (.divu rs rt) rd h l s) ∧
    (∀ (i : Instr) (rd : Reg) (s : State), rd ≠ 0#5 → (writesHi i || writesLo i) = true →
      NextReads (.mfhi rd) i rd s.hi s ∧ NextReads (.mflo rd) i rd s.lo s) ∧
    (∀ (rt cell rd : Reg) (s : State), rd ≠ 0#5 →
      NextReads (.mtc0 rt cell) (.mfc0 rd cell) rd (s.readReg rt) s) ∧
    (∀ (rt : Reg) (s : State),
      Completes (.mtc0 rt s.cfg.epcIdx) s fun t => Completes .eret t fun u => u.pc = s.readReg rt) ∧
    (∀ (e : Exc) (rd : Reg) (s : State), rd ≠ 0#5 →
      (Completes (.mfc0 rd s.cfg.epcIdx) (raise e s) fun u => u.readReg rd = epcValue s.cfg e s.pc) ∧
        Completes .eret (raise e s) fun u => u.pc = epcValue s.cfg e s.pc) ∧
    (∀ (code : BitVec 20) (s : State),
      (Completes (.brk code) s fun t => Completes .eret t fun u => u.pc = s.pc + 4#32) ∧
        Completes (.syscall code) s fun t => Completes .eret t fun u => u.pc = s.pc + 4#32) ∧
    ∀ (rt base rd : Reg) (offset : Half) (s : State), rt ≠ 0#5 → rd ≠ 0#5 →
      let addr := effAddr base offset s
      let b : Byte := (memword s addr).extractLsb' (8 * (addr.toNat % 4)) 8
      let h : Half := (memword s addr).extractLsb' (8 * (addr.toNat % 4)) 16
      s.cfg.mapsData addr = true →
        NextReads (.lb rt offset base) (.addu rd rt 0#5) rd (b.signExtend 32) s ∧
          NextReads (.lbu rt offset base) (.addu rd rt 0#5) rd (b.zeroExtend 32) s ∧
          (addr.toNat % 2 = 0 →
            NextReads (.lh rt offset base) (.addu rd rt 0#5) rd (h.signExtend 32) s ∧
              NextReads (.lhu rt offset base) (.addu rd rt 0#5) rd (h.zeroExtend 32) s) ∧
          (addr.toNat % 4 = 0 → NextReads (.lw rt offset base) (.addu rd rt 0#5) rd (memword s addr) s)

/-- O58. For every assembly line: the assembler gives an instruction exactly when the line is well formed (operands
of the mnemonic's shape, register numbers 0..31, shift amounts 0..31, immediates -32768..65535, targets below
2^26, codes below 2^20), and the instruction has the line's mnemonic. (R98 and R99 rest on decision D29, log
32.) -/
def Obligations.AssemblerAcceptsWellFormedLines : Prop :=
  ∀ l : AsmLine, ((assemble l).isSome = true ↔ l.wellFormed = true) ∧
    ∀ i, assemble l = some i → i.mnemonic = l.mnemonic

/-- O59. For every state (nothing switches the order) and an effective address whose word is mapped: with address
bits 1..0 = 00, 01, 10, 11, LB delivers in x[rt][7:0] bits 7..0, 15..8, 23..16, 31..24 of the containing word,
and SB puts x[rt][7:0] there; with bits 1..0 = 00, 10, LH delivers in x[rt][15:0] bits 15..0, 31..16, and SH
puts x[rt][15:0] there. The loads are stated for rt other than 0, the only destination that shows a value (a
load to register 0 is in LoadByteFromItsLane and LoadHalfwordFromItsLane). -/
def Obligations.ByteOrderIsLittleEndian : Prop :=
  ∀ (rt base : Reg) (offset : Half) (s : State) (k : Nat),
    let addr := effAddr base offset s
    s.cfg.mapsData addr = true →
      (k < 4 → addr.extractLsb' 0 2 = BitVec.ofNat 2 k →
        (rt ≠ 0#5 → Completes (.lb rt offset base) s fun t =>
          (t.readReg rt).extractLsb' 0 8 = (memword s addr).extractLsb' (8 * k) 8) ∧
        Completes (.sb rt offset base) s fun t =>
          (memword t addr).extractLsb' (8 * k) 8 = (s.readReg rt).extractLsb' 0 8) ∧
      (k < 2 → addr.extractLsb' 0 2 = BitVec.ofNat 2 (2 * k) →
        (rt ≠ 0#5 → Completes (.lh rt offset base) s fun t =>
          (t.readReg rt).extractLsb' 0 16 = (memword s addr).extractLsb' (16 * k) 16) ∧
        Completes (.sh rt offset base) s fun t =>
          (memword t addr).extractLsb' (16 * k) 16 = (s.readReg rt).extractLsb' 0 16)
end

