-- ==== Sys2Proof/Laws/Decoding.lean ====
section
/-! SUPPORT. The decoder against the opcode table (R91 to R95): a word's fields under a mask, and for each of the 55
instructions the lemma that the words which decode to it are those of its row. -/

namespace Sys2Proof

/-- The parts of a concatenation are determined by it. -/
theorem append_inj {m n : Nat} {a c : BitVec m} {b d : BitVec n} (h : a ++ b = c ++ d) : a = c ∧ b = d := by
  have e : ∀ (x : BitVec m) (y : BitVec n), (x ++ y).toNat = y.toNat + 2 ^ n * x.toNat := by
    intro x y
    rw [BitVec.toNat_append, ← Nat.shiftLeft_add_eq_or_of_lt y.isLt, Nat.shiftLeft_eq, Nat.mul_comm, Nat.add_comm]
  have h' := congrArg BitVec.toNat h
  rw [e, e] at h'
  have hb : b.toNat = d.toNat := by
    have := congrArg (· % 2 ^ n) h'
    simpa [Nat.add_mul_mod_self_left, Nat.mod_eq_of_lt b.isLt, Nat.mod_eq_of_lt d.isLt] using this
  refine ⟨BitVec.eq_of_toNat_eq ?_, BitVec.eq_of_toNat_eq hb⟩
  rw [hb] at h'
  exact Nat.eq_of_mul_eq_mul_left (Nat.two_pow_pos n) (Nat.add_left_cancel h')

/-- A word is its six R-format fields. -/
theorem word_fields (w : Word) :
    w = opcodeOf w ++ rsOf w ++ rtOf w ++ rdOf w ++ shamtOf w ++ functOf w := by
  unfold opcodeOf rsOf rtOf rdOf shamtOf functOf
  iterate 5 rw [BitVec.extractLsb'_append_extractLsb'_eq_extractLsb' (by rfl)]
  simp

/-- A word under a mask, field by field. -/
theorem mask_fields (w : Word) (m0 p0 m5 p5 : BitVec 6) (m1 m2 m3 m4 p1 p2 p3 p4 : BitVec 5) :
    w &&& (m0 ++ m1 ++ m2 ++ m3 ++ m4 ++ m5) = p0 ++ p1 ++ p2 ++ p3 ++ p4 ++ p5 ↔
      opcodeOf w &&& m0 = p0 ∧ rsOf w &&& m1 = p1 ∧ rtOf w &&& m2 = p2 ∧ rdOf w &&& m3 = p3 ∧
        shamtOf w &&& m4 = p4 ∧ functOf w &&& m5 = p5 := by
  conv => lhs; lhs; lhs; rw [word_fields w]
  iterate 5 rw [BitVec.and_append]
  constructor
  · intro h
    obtain ⟨h, h5⟩ := append_inj h
    obtain ⟨h, h4⟩ := append_inj h
    obtain ⟨h, h3⟩ := append_inj h
    obtain ⟨h, h2⟩ := append_inj h
    obtain ⟨h0, h1⟩ := append_inj h
    exact ⟨h0, h1, h2, h3, h4, h5⟩
  · rintro ⟨h0, h1, h2, h3, h4, h5⟩
    rw [h0, h1, h2, h3, h4, h5]

/-- The eleven low bits are the shift amount and the function code. -/
theorem low11_eq_zero (w : Word) : w.extractLsb' 0 11 = 0#11 ↔ shamtOf w = 0#5 ∧ functOf w = 0#6 := by
  have : w.extractLsb' 0 11 = shamtOf w ++ functOf w := by
    unfold shamtOf functOf
    rw [BitVec.extractLsb'_append_extractLsb'_eq_extractLsb' (by rfl)]
  rw [this]
  constructor
  · intro h
    exact append_inj (h.trans (by decide : (0#11) = 0#5 ++ 0#6))
  · rintro ⟨h1, h2⟩
    rw [h1, h2]; decide


/-- A word under a mask, field by field, the mask and the pattern given as words. -/
theorem mask_iff (w m p : Word) :
    w &&& m = p ↔
      opcodeOf w &&& opcodeOf m = opcodeOf p ∧ rsOf w &&& rsOf m = rsOf p ∧ rtOf w &&& rtOf m = rtOf p ∧
        rdOf w &&& rdOf m = rdOf p ∧ shamtOf w &&& shamtOf m = shamtOf p ∧ functOf w &&& functOf m = functOf p := by
  conv => lhs; rw [word_fields m, word_fields p]
  exact mask_fields _ _ _ _ _ _ _ _ _ _ _ _ _

/-! Fields of a numeral, and under a full mask. -/

theorem and_full5 (x : BitVec 5) : x &&& 31#5 = x := BitVec.and_allOnes
theorem and_full6 (x : BitVec 6) : x &&& 63#6 = x := BitVec.and_allOnes
theorem opcodeOf_ofNat (n : Nat) : opcodeOf (BitVec.ofNat 32 n) = BitVec.ofNat 6 (n >>> 26) := by
  apply BitVec.eq_of_toNat_eq; simp [opcodeOf, Nat.shiftRight_eq_div_pow]; omega
theorem rsOf_ofNat (n : Nat) : rsOf (BitVec.ofNat 32 n) = BitVec.ofNat 5 (n >>> 21) := by
  apply BitVec.eq_of_toNat_eq; simp [rsOf, Nat.shiftRight_eq_div_pow]; omega
theorem rtOf_ofNat (n : Nat) : rtOf (BitVec.ofNat 32 n) = BitVec.ofNat 5 (n >>> 16) := by
  apply BitVec.eq_of_toNat_eq; simp [rtOf, Nat.shiftRight_eq_div_pow]; omega
theorem rdOf_ofNat (n : Nat) : rdOf (BitVec.ofNat 32 n) = BitVec.ofNat 5 (n >>> 11) := by
  apply BitVec.eq_of_toNat_eq; simp [rdOf, Nat.shiftRight_eq_div_pow]; omega
theorem shamtOf_ofNat (n : Nat) : shamtOf (BitVec.ofNat 32 n) = BitVec.ofNat 5 (n >>> 6) := by
  apply BitVec.eq_of_toNat_eq; simp [shamtOf, Nat.shiftRight_eq_div_pow]; omega
theorem functOf_ofNat (n : Nat) : functOf (BitVec.ofNat 32 n) = BitVec.ofNat 6 n := by
  apply BitVec.eq_of_toNat_eq; simp [functOf]

/-- The row of the opcode table that bears a mnemonic. -/
def rowOf : Mnemonic → OpcodeRow
  | .sll => ⟨.sll, 0xFFE0003F#32, 0x00000000#32⟩
  | .srl => ⟨.srl, 0xFFE0003F#32, 0x00000002#32⟩
  | .sra => ⟨.sra, 0xFFE0003F#32, 0x00000003#32⟩
  | .sllv => ⟨.sllv, 0xFC0007FF#32, 0x00000004#32⟩
  | .srlv => ⟨.srlv, 0xFC0007FF#32, 0x00000006#32⟩
  | .srav => ⟨.srav, 0xFC0007FF#32, 0x00000007#32⟩
  | .jr => ⟨.jr, 0xFC1FFFFF#32, 0x00000008#32⟩
  | .jalr => ⟨.jalr, 0xFC1F07FF#32, 0x00000009#32⟩
  | .syscall => ⟨.syscall, 0xFC00003F#32, 0x0000000C#32⟩
  | .brk => ⟨.brk, 0xFC00003F#32, 0x0000000D#32⟩
  | .mfhi => ⟨.mfhi, 0xFFFF07FF#32, 0x00000010#32⟩
  | .mthi => ⟨.mthi, 0xFC1FFFFF#32, 0x00000011#32⟩
  | .mflo => ⟨.mflo, 0xFFFF07FF#32, 0x00000012#32⟩
  | .mtlo => ⟨.mtlo, 0xFC1FFFFF#32, 0x00000013#32⟩
  | .mult => ⟨.mult, 0xFC00FFFF#32, 0x00000018#32⟩
  | .multu => ⟨.multu, 0xFC00FFFF#32, 0x00000019#32⟩
  | .div => ⟨.div, 0xFC00FFFF#32, 0x0000001A#32⟩
  | .divu => ⟨.divu, 0xFC00FFFF#32, 0x0000001B#32⟩
  | .add => ⟨.add, 0xFC0007FF#32, 0x00000020#32⟩
  | .addu => ⟨.addu, 0xFC0007FF#32, 0x00000021#32⟩
  | .sub => ⟨.sub, 0xFC0007FF#32, 0x00000022#32⟩
  | .subu => ⟨.subu, 0xFC0007FF#32, 0x00000023#32⟩
  | .and => ⟨.and, 0xFC0007FF#32, 0x00000024#32⟩
  | .or => ⟨.or, 0xFC0007FF#32, 0x00000025#32⟩
  | .xor => ⟨.xor, 0xFC0007FF#32, 0x00000026#32⟩
  | .nor => ⟨.nor, 0xFC0007FF#32, 0x00000027#32⟩
  | .slt => ⟨.slt, 0xFC0007FF#32, 0x0000002A#32⟩
  | .sltu => ⟨.sltu, 0xFC0007FF#32, 0x0000002B#32⟩
  | .bltz => ⟨.bltz, 0xFC1F0000#32, 0x04000000#32⟩
  | .bgez => ⟨.bgez, 0xFC1F0000#32, 0x04010000#32⟩
  | .j => ⟨.j, 0xFC000000#32, 0x08000000#32⟩
  | .jal => ⟨.jal, 0xFC000000#32, 0x0C000000#32⟩
  | .beq => ⟨.beq, 0xFC000000#32, 0x10000000#32⟩
  | .bne => ⟨.bne, 0xFC000000#32, 0x14000000#32⟩
  | .blez => ⟨.blez, 0xFC1F0000#32, 0x18000000#32⟩
  | .bgtz => ⟨.bgtz, 0xFC1F0000#32, 0x1C000000#32⟩
  | .addi => ⟨.addi, 0xFC000000#32, 0x20000000#32⟩
  | .addiu => ⟨.addiu, 0xFC000000#32, 0x24000000#32⟩
  | .slti => ⟨.slti, 0xFC000000#32, 0x28000000#32⟩
  | .sltiu => ⟨.sltiu, 0xFC000000#32, 0x2C000000#32⟩
  | .andi => ⟨.andi, 0xFC000000#32, 0x30000000#32⟩
  | .ori => ⟨.ori, 0xFC000000#32, 0x34000000#32⟩
  | .xori => ⟨.xori, 0xFC000000#32, 0x38000000#32⟩
  | .lui => ⟨.lui, 0xFFE00000#32, 0x3C000000#32⟩
  | .mfc0 => ⟨.mfc0, 0xFFE007FF#32, 0x40000000#32⟩
  | .mtc0 => ⟨.mtc0, 0xFFE007FF#32, 0x40800000#32⟩
  | .eret => ⟨.eret, 0xFFFFFFFF#32, 0x42000018#32⟩
  | .lb => ⟨.lb, 0xFC000000#32, 0x80000000#32⟩
  | .lh => ⟨.lh, 0xFC000000#32, 0x84000000#32⟩
  | .lw => ⟨.lw, 0xFC000000#32, 0x8C000000#32⟩
  | .lbu => ⟨.lbu, 0xFC000000#32, 0x90000000#32⟩
  | .lhu => ⟨.lhu, 0xFC000000#32, 0x94000000#32⟩
  | .sb => ⟨.sb, 0xFC000000#32, 0xA0000000#32⟩
  | .sh => ⟨.sh, 0xFC000000#32, 0xA4000000#32⟩
  | .sw => ⟨.sw, 0xFC000000#32, 0xAC000000#32⟩

theorem rowOf_mem (m : Mnemonic) : rowOf m ∈ opcodeTable := by cases m <;> decide

/-- An instruction taken from a word whose fixed zero fields are tested. -/
theorem ifZero_ok {c : Bool} {i j : Instr} (h : ifZero c i = .ok j) : c = true ∧ j = i := by
  unfold ifZero at h
  split at h
  · exact ⟨‹_›, (Decoded.ok.inj h).symm⟩
  · cases h

theorem ite_or {p : Prop} [Decidable p] {a b x : Decoded} (h : (if p then a else b) = x) :
    (p ∧ a = x) ∨ b = x := by
  split at h
  · exact .inl ⟨‹_›, h⟩
  · exact .inr h

theorem special_sound (w : Word) (i : Instr) (h0 : opcodeOf w = 0x00#6) (h : decodeSpecial w = .ok i) :
    w &&& (rowOf i.mnemonic).mask = (rowOf i.mnemonic).pattern := by
  rw [mask_iff]
  rw [decodeSpecial] at h
  repeat
    rcases ite_or h with ⟨hf, h⟩ | h
    · first
        | obtain ⟨hz, rfl⟩ := ifZero_ok h
          simp [Instr.mnemonic, rowOf, opcodeOf_ofNat, rsOf_ofNat, rtOf_ofNat, rdOf_ofNat, shamtOf_ofNat, functOf_ofNat, h0, hf] at hz ⊢
          simp [hz]
        | obtain rfl := Decoded.ok.inj h
          simp [Instr.mnemonic, rowOf, opcodeOf_ofNat, rsOf_ofNat, rtOf_ofNat, rdOf_ofNat, shamtOf_ofNat, functOf_ofNat, h0, hf]
  cases h

theorem regimm_sound (w : Word) (i : Instr) (h0 : opcodeOf w = 0x01#6) (h : decodeRegimm w = .ok i) :
    w &&& (rowOf i.mnemonic).mask = (rowOf i.mnemonic).pattern := by
  rw [mask_iff]
  rw [decodeRegimm] at h
  repeat
    rcases ite_or h with ⟨hf, h⟩ | h
    · obtain rfl := Decoded.ok.inj h
      simp [Instr.mnemonic, rowOf, opcodeOf_ofNat, rsOf_ofNat, rtOf_ofNat, rdOf_ofNat, shamtOf_ofNat, functOf_ofNat, h0, hf]
  cases h

theorem cop0_sound (w : Word) (i : Instr) (h0 : opcodeOf w = 0x10#6) (h : decodeCop0 w = .ok i) :
    w &&& (rowOf i.mnemonic).mask = (rowOf i.mnemonic).pattern := by
  rw [mask_iff]
  rw [decodeCop0] at h
  iterate 2
    rcases ite_or h with ⟨hf, h⟩ | h
    · obtain ⟨hz, rfl⟩ := ifZero_ok h
      have hz := (low11_eq_zero w).1 (by simpa using hz)
      simp [Instr.mnemonic, rowOf, opcodeOf_ofNat, rsOf_ofNat, rtOf_ofNat, rdOf_ofNat, shamtOf_ofNat, functOf_ofNat, h0, hf, hz]
  rcases ite_or h with ⟨hf, h⟩ | h
  · obtain rfl := Decoded.ok.inj h
    subst hf
    decide
  · cases h

/-- What decodes to an instruction matches the row that bears its mnemonic (R93). -/
theorem decodeWord_sound (w : Word) (i : Instr) (h : decodeWord w = .ok i) :
    w &&& (rowOf i.mnemonic).mask = (rowOf i.mnemonic).pattern := by
  rw [decodeWord] at h
  rcases ite_or h with ⟨hf, h⟩ | h
  · exact special_sound w i hf h
  rcases ite_or h with ⟨hf, h⟩ | h
  · exact regimm_sound w i hf h
  rcases ite_or h with ⟨hf, h⟩ | h
  · exact cop0_sound w i hf h
  rw [mask_iff]
  repeat
    rcases ite_or h with ⟨hf, h⟩ | h
    · first
        | obtain ⟨hz, rfl⟩ := ifZero_ok h
          simp [Instr.mnemonic, rowOf, opcodeOf_ofNat, rsOf_ofNat, rtOf_ofNat, rdOf_ofNat, shamtOf_ofNat, functOf_ofNat, hf] at hz ⊢
          simp [hz]
        | obtain rfl := Decoded.ok.inj h
          simp [Instr.mnemonic, rowOf, opcodeOf_ofNat, rsOf_ofNat, rtOf_ofNat, rdOf_ofNat, shamtOf_ofNat, functOf_ofNat, hf]
  cases h

namespace Machine

/-- The converse for one row is enough: the other half is `decodeWord_sound`. -/
theorem encodedAs_of_row (mask pattern : Word) (mk : Word → Instr) (m : Mnemonic)
    (hrow : rowOf m = ⟨m, mask, pattern⟩) (hm : ∀ w, (mk w).mnemonic = m)
    (h : ∀ w, w &&& mask = pattern → decodeWord w = .ok (mk w)) : EncodedAs mask pattern mk := by
  intro w
  refine ⟨fun e => ?_, h w⟩
  have := decodeWord_sound w _ e
  rw [hm w, hrow] at this
  exact this

theorem encodedAs_sll : EncodedAs 0xFFE0003F#32 0x00000000#32
    (fun w => .sll (rdOf w) (rtOf w) (shamtOf w)) := by
  refine encodedAs_of_row _ _ _ .sll rfl (fun _ => rfl) fun w h => ?_
  rw [mask_iff] at h
  simp [opcodeOf_ofNat, rsOf_ofNat, rtOf_ofNat, rdOf_ofNat, shamtOf_ofNat, functOf_ofNat, and_full5, and_full6] at h
  simp [decodeWord, decodeSpecial, ifZero, h]

theorem encodedAs_srl : EncodedAs 0xFFE0003F#32 0x00000002#32
    (fun w => .srl (rdOf w) (rtOf w) (shamtOf w)) := by
  refine encodedAs_of_row _ _ _ .srl rfl (fun _ => rfl) fun w h => ?_
  rw [mask_iff] at h
  simp [opcodeOf_ofNat, rsOf_ofNat, rtOf_ofNat, rdOf_ofNat, shamtOf_ofNat, functOf_ofNat, and_full5, and_full6] at h
  simp [decodeWord, decodeSpecial, ifZero, h]

theorem encodedAs_sra : EncodedAs 0xFFE0003F#32 0x00000003#32
    (fun w => .sra (rdOf w) (rtOf w) (shamtOf w)) := by
  refine encodedAs_of_row _ _ _ .sra rfl (fun _ => rfl) fun w h => ?_
  rw [mask_iff] at h
  simp [opcodeOf_ofNat, rsOf_ofNat, rtOf_ofNat, rdOf_ofNat, shamtOf_ofNat, functOf_ofNat, and_full5, and_full6] at h
  simp [decodeWord, decodeSpecial, ifZero, h]

theorem encodedAs_sllv : EncodedAs 0xFC0007FF#32 0x00000004#32
    (fun w => .sllv (rdOf w) (rtOf w) (rsOf w)) := by
  refine encodedAs_of_row _ _ _ .sllv rfl (fun _ => rfl) fun w h => ?_
  rw [mask_iff] at h
  simp [opcodeOf_ofNat, rsOf_ofNat, rtOf_ofNat, rdOf_ofNat, shamtOf_ofNat, functOf_ofNat, and_full5, and_full6] at h
  simp [decodeWord, decodeSpecial, ifZero, h]

theorem encodedAs_srlv : EncodedAs 0xFC0007FF#32 0x00000006#32
    (fun w => .srlv (rdOf w) (rtOf w) (rsOf w)) := by
  refine encodedAs_of_row _ _ _ .srlv rfl (fun _ => rfl) fun w h => ?_
  rw [mask_iff] at h
  simp [opcodeOf_ofNat, rsOf_ofNat, rtOf_ofNat, rdOf_ofNat, shamtOf_ofNat, functOf_ofNat, and_full5, and_full6] at h
  simp [decodeWord, decodeSpecial, ifZero, h]

theorem encodedAs_srav : EncodedAs 0xFC0007FF#32 0x00000007#32
    (fun w => .srav (rdOf w) (rtOf w) (rsOf w)) := by
  refine encodedAs_of_row _ _ _ .srav rfl (fun _ => rfl) fun w h => ?_
  rw [mask_iff] at h
  simp [opcodeOf_ofNat, rsOf_ofNat, rtOf_ofNat, rdOf_ofNat, shamtOf_ofNat, functOf_ofNat, and_full5, and_full6] at h
  simp [decodeWord, decodeSpecial, ifZero, h]

theorem encodedAs_jr : EncodedAs 0xFC1FFFFF#32 0x00000008#32
    (fun w => .jr (rsOf w)) := by
  refine encodedAs_of_row _ _ _ .jr rfl (fun _ => rfl) fun w h => ?_
  rw [mask_iff] at h
  simp [opcodeOf_ofNat, rsOf_ofNat, rtOf_ofNat, rdOf_ofNat, shamtOf_ofNat, functOf_ofNat, and_full5, and_full6] at h
  simp [decodeWord, decodeSpecial, ifZero, h]

theorem encodedAs_jalr : EncodedAs 0xFC1F07FF#32 0x00000009#32
    (fun w => .jalr (rdOf w) (rsOf w)) := by
  refine encodedAs_of_row _ _ _ .jalr rfl (fun _ => rfl) fun w h => ?_
  rw [mask_iff] at h
  simp [opcodeOf_ofNat, rsOf_ofNat, rtOf_ofNat, rdOf_ofNat, shamtOf_ofNat, functOf_ofNat, and_full5, and_full6] at h
  simp [decodeWord, decodeSpecial, ifZero, h]

theorem encodedAs_syscall : EncodedAs 0xFC00003F#32 0x0000000C#32
    (fun w => .syscall (codeOf w)) := by
  refine encodedAs_of_row _ _ _ .syscall rfl (fun _ => rfl) fun w h => ?_
  rw [mask_iff] at h
  simp [opcodeOf_ofNat, rsOf_ofNat, rtOf_ofNat, rdOf_ofNat, shamtOf_ofNat, functOf_ofNat, and_full6] at h
  simp [decodeWord, decodeSpecial, h]

theorem encodedAs_brk : EncodedAs 0xFC00003F#32 0x0000000D#32
    (fun w => .brk (codeOf w)) := by
  refine encodedAs_of_row _ _ _ .brk rfl (fun _ => rfl) fun w h => ?_
  rw [mask_iff] at h
  simp [opcodeOf_ofNat, rsOf_ofNat, rtOf_ofNat, rdOf_ofNat, shamtOf_ofNat, functOf_ofNat, and_full6] at h
  simp [decodeWord, decodeSpecial, h]

theorem encodedAs_mfhi : EncodedAs 0xFFFF07FF#32 0x00000010#32
    (fun w => .mfhi (rdOf w)) := by
  refine encodedAs_of_row _ _ _ .mfhi rfl (fun _ => rfl) fun w h => ?_
  rw [mask_iff] at h
  simp [opcodeOf_ofNat, rsOf_ofNat, rtOf_ofNat, rdOf_ofNat, shamtOf_ofNat, functOf_ofNat, and_full5, and_full6] at h
  simp [decodeWord, decodeSpecial, ifZero, h]

theorem encodedAs_mthi : EncodedAs 0xFC1FFFFF#32 0x00000011#32
    (fun w => .mthi (rsOf w)) := by
  refine encodedAs_of_row _ _ _ .mthi rfl (fun _ => rfl) fun w h => ?_
  rw [mask_iff] at h
  simp [opcodeOf_ofNat, rsOf_ofNat, rtOf_ofNat, rdOf_ofNat, shamtOf_ofNat, functOf_ofNat, and_full5, and_full6] at h
  simp [decodeWord, decodeSpecial, ifZero, h]

theorem encodedAs_mflo : EncodedAs 0xFFFF07FF#32 0x00000012#32
    (fun w => .mflo (rdOf w)) := by
  refine encodedAs_of_row _ _ _ .mflo rfl (fun _ => rfl) fun w h => ?_
  rw [mask_iff] at h
  simp [opcodeOf_ofNat, rsOf_ofNat, rtOf_ofNat, rdOf_ofNat, shamtOf_ofNat, functOf_ofNat, and_full5, and_full6] at h
  simp [decodeWord, decodeSpecial, ifZero, h]

theorem encodedAs_mtlo : EncodedAs 0xFC1FFFFF#32 0x00000013#32
    (fun w => .mtlo (rsOf w)) := by
  refine encodedAs_of_row _ _ _ .mtlo rfl (fun _ => rfl) fun w h => ?_
  rw [mask_iff] at h
  simp [opcodeOf_ofNat, rsOf_ofNat, rtOf_ofNat, rdOf_ofNat, shamtOf_ofNat, functOf_ofNat, and_full5, and_full6] at h
  simp [decodeWord, decodeSpecial, ifZero, h]

theorem encodedAs_mult : EncodedAs 0xFC00FFFF#32 0x00000018#32
    (fun w => .mult (rsOf w) (rtOf w)) := by
  refine encodedAs_of_row _ _ _ .mult rfl (fun _ => rfl) fun w h => ?_
  rw [mask_iff] at h
  simp [opcodeOf_ofNat, rsOf_ofNat, rtOf_ofNat, rdOf_ofNat, shamtOf_ofNat, functOf_ofNat, and_full5, and_full6] at h
  simp [decodeWord, decodeSpecial, ifZero, h]

theorem encodedAs_multu : EncodedAs 0xFC00FFFF#32 0x00000019#32
    (fun w => .multu (rsOf w) (rtOf w)) := by
  refine encodedAs_of_row _ _ _ .multu rfl (fun _ => rfl) fun w h => ?_
  rw [mask_iff] at h
  simp [opcodeOf_ofNat, rsOf_ofNat, rtOf_ofNat, rdOf_ofNat, shamtOf_ofNat, functOf_ofNat, and_full5, and_full6] at h
  simp [decodeWord, decodeSpecial, ifZero, h]

theorem encodedAs_div : EncodedAs 0xFC00FFFF#32 0x0000001A#32
    (fun w => .div (rsOf w) (rtOf w)) := by
  refine encodedAs_of_row _ _ _ .div rfl (fun _ => rfl) fun w h => ?_
  rw [mask_iff] at h
  simp [opcodeOf_ofNat, rsOf_ofNat, rtOf_ofNat, rdOf_ofNat, shamtOf_ofNat, functOf_ofNat, and_full5, and_full6] at h
  simp [decodeWord, decodeSpecial, ifZero, h]

theorem encodedAs_divu : EncodedAs 0xFC00FFFF#32 0x0000001B#32
    (fun w => .divu (rsOf w) (rtOf w)) := by
  refine encodedAs_of_row _ _ _ .divu rfl (fun _ => rfl) fun w h => ?_
  rw [mask_iff] at h
  simp [opcodeOf_ofNat, rsOf_ofNat, rtOf_ofNat, rdOf_ofNat, shamtOf_ofNat, functOf_ofNat, and_full5, and_full6] at h
  simp [decodeWord, decodeSpecial, ifZero, h]

theorem encodedAs_add : EncodedAs 0xFC0007FF#32 0x00000020#32
    (fun w => .add (rdOf w) (rsOf w) (rtOf w)) := by
  refine encodedAs_of_row _ _ _ .add rfl (fun _ => rfl) fun w h => ?_
  rw [mask_iff] at h
  simp [opcodeOf_ofNat, rsOf_ofNat, rtOf_ofNat, rdOf_ofNat, shamtOf_ofNat, functOf_ofNat, and_full5, and_full6] at h
  simp [decodeWord, decodeSpecial, ifZero, h]

theorem encodedAs_addu : EncodedAs 0xFC0007FF#32 0x00000021#32
    (fun w => .addu (rdOf w) (rsOf w) (rtOf w)) := by
  refine encodedAs_of_row _ _ _ .addu rfl (fun _ => rfl) fun w h => ?_
  rw [mask_iff] at h
  simp [opcodeOf_ofNat, rsOf_ofNat, rtOf_ofNat, rdOf_ofNat, shamtOf_ofNat, functOf_ofNat, and_full5, and_full6] at h
  simp [decodeWord, decodeSpecial, ifZero, h]

theorem encodedAs_sub : EncodedAs 0xFC0007FF#32 0x00000022#32
    (fun w => .sub (rdOf w) (rsOf w) (rtOf w)) := by
  refine encodedAs_of_row _ _ _ .sub rfl (fun _ => rfl) fun w h => ?_
  rw [mask_iff] at h
  simp [opcodeOf_ofNat, rsOf_ofNat, rtOf_ofNat, rdOf_ofNat, shamtOf_ofNat, functOf_ofNat, and_full5, and_full6] at h
  simp [decodeWord, decodeSpecial, ifZero, h]

theorem encodedAs_subu : EncodedAs 0xFC0007FF#32 0x00000023#32
    (fun w => .subu (rdOf w) (rsOf w) (rtOf w)) := by
  refine encodedAs_of_row _ _ _ .subu rfl (fun _ => rfl) fun w h => ?_
  rw [mask_iff] at h
  simp [opcodeOf_ofNat, rsOf_ofNat, rtOf_ofNat, rdOf_ofNat, shamtOf_ofNat, functOf_ofNat, and_full5, and_full6] at h
  simp [decodeWord, decodeSpecial, ifZero, h]

theorem encodedAs_and : EncodedAs 0xFC0007FF#32 0x00000024#32
    (fun w => .and (rdOf w) (rsOf w) (rtOf w)) := by
  refine encodedAs_of_row _ _ _ .and rfl (fun _ => rfl) fun w h => ?_
  rw [mask_iff] at h
  simp [opcodeOf_ofNat, rsOf_ofNat, rtOf_ofNat, rdOf_ofNat, shamtOf_ofNat, functOf_ofNat, and_full5, and_full6] at h
  simp [decodeWord, decodeSpecial, ifZero, h]

theorem encodedAs_or : EncodedAs 0xFC0007FF#32 0x00000025#32
    (fun w => .or (rdOf w) (rsOf w) (rtOf w)) := by
  refine encodedAs_of_row _ _ _ .or rfl (fun _ => rfl) fun w h => ?_
  rw [mask_iff] at h
  simp [opcodeOf_ofNat, rsOf_ofNat, rtOf_ofNat, rdOf_ofNat, shamtOf_ofNat, functOf_ofNat, and_full5, and_full6] at h
  simp [decodeWord, decodeSpecial, ifZero, h]

theorem encodedAs_xor : EncodedAs 0xFC0007FF#32 0x00000026#32
    (fun w => .xor (rdOf w) (rsOf w) (rtOf w)) := by
  refine encodedAs_of_row _ _ _ .xor rfl (fun _ => rfl) fun w h => ?_
  rw [mask_iff] at h
  simp [opcodeOf_ofNat, rsOf_ofNat, rtOf_ofNat, rdOf_ofNat, shamtOf_ofNat, functOf_ofNat, and_full5, and_full6] at h
  simp [decodeWord, decodeSpecial, ifZero, h]

theorem encodedAs_nor : EncodedAs 0xFC0007FF#32 0x00000027#32
    (fun w => .nor (rdOf w) (rsOf w) (rtOf w)) := by
  refine encodedAs_of_row _ _ _ .nor rfl (fun _ => rfl) fun w h => ?_
  rw [mask_iff] at h
  simp [opcodeOf_ofNat, rsOf_ofNat, rtOf_ofNat, rdOf_ofNat, shamtOf_ofNat, functOf_ofNat, and_full5, and_full6] at h
  simp [decodeWord, decodeSpecial, ifZero, h]

theorem encodedAs_slt : EncodedAs 0xFC0007FF#32 0x0000002A#32
    (fun w => .slt (rdOf w) (rsOf w) (rtOf w)) := by
  refine encodedAs_of_row _ _ _ .slt rfl (fun _ => rfl) fun w h => ?_
  rw [mask_iff] at h
  simp [opcodeOf_ofNat, rsOf_ofNat, rtOf_ofNat, rdOf_ofNat, shamtOf_ofNat, functOf_ofNat, and_full5, and_full6] at h
  simp [decodeWord, decodeSpecial, ifZero, h]

theorem encodedAs_sltu : EncodedAs 0xFC0007FF#32 0x0000002B#32
    (fun w => .sltu (rdOf w) (rsOf w) (rtOf w)) := by
  refine encodedAs_of_row _ _ _ .sltu rfl (fun _ => rfl) fun w h => ?_
  rw [mask_iff] at h
  simp [opcodeOf_ofNat, rsOf_ofNat, rtOf_ofNat, rdOf_ofNat, shamtOf_ofNat, functOf_ofNat, and_full5, and_full6] at h
  simp [decodeWord, decodeSpecial, ifZero, h]

theorem encodedAs_bltz : EncodedAs 0xFC1F0000#32 0x04000000#32
    (fun w => .bltz (rsOf w) (immOf w)) := by
  refine encodedAs_of_row _ _ _ .bltz rfl (fun _ => rfl) fun w h => ?_
  rw [mask_iff] at h
  simp [opcodeOf_ofNat, rsOf_ofNat, rtOf_ofNat, rdOf_ofNat, shamtOf_ofNat, functOf_ofNat, and_full5, and_full6] at h
  simp [decodeWord, decodeRegimm, h]

theorem encodedAs_bgez : EncodedAs 0xFC1F0000#32 0x04010000#32
    (fun w => .bgez (rsOf w) (immOf w)) := by
  refine encodedAs_of_row _ _ _ .bgez rfl (fun _ => rfl) fun w h => ?_
  rw [mask_iff] at h
  simp [opcodeOf_ofNat, rsOf_ofNat, rtOf_ofNat, rdOf_ofNat, shamtOf_ofNat, functOf_ofNat, and_full5, and_full6] at h
  simp [decodeWord, decodeRegimm, h]

theorem encodedAs_j : EncodedAs 0xFC000000#32 0x08000000#32
    (fun w => .j (indexOf w)) := by
  refine encodedAs_of_row _ _ _ .j rfl (fun _ => rfl) fun w h => ?_
  rw [mask_iff] at h
  simp [opcodeOf_ofNat, rsOf_ofNat, rtOf_ofNat, rdOf_ofNat, shamtOf_ofNat, functOf_ofNat, and_full6] at h
  simp [decodeWord, h]

theorem encodedAs_jal : EncodedAs 0xFC000000#32 0x0C000000#32
    (fun w => .jal (indexOf w)) := by
  refine encodedAs_of_row _ _ _ .jal rfl (fun _ => rfl) fun w h => ?_
  rw [mask_iff] at h
  simp [opcodeOf_ofNat, rsOf_ofNat, rtOf_ofNat, rdOf_ofNat, shamtOf_ofNat, functOf_ofNat, and_full6] at h
  simp [decodeWord, h]

theorem encodedAs_beq : EncodedAs 0xFC000000#32 0x10000000#32
    (fun w => .beq (rsOf w) (rtOf w) (immOf w)) := by
  refine encodedAs_of_row _ _ _ .beq rfl (fun _ => rfl) fun w h => ?_
  rw [mask_iff] at h
  simp [opcodeOf_ofNat, rsOf_ofNat, rtOf_ofNat, rdOf_ofNat, shamtOf_ofNat, functOf_ofNat, and_full6] at h
  simp [decodeWord, h]

theorem encodedAs_bne : EncodedAs 0xFC000000#32 0x14000000#32
    (fun w => .bne (rsOf w) (rtOf w) (immOf w)) := by
  refine encodedAs_of_row _ _ _ .bne rfl (fun _ => rfl) fun w h => ?_
  rw [mask_iff] at h
  simp [opcodeOf_ofNat, rsOf_ofNat, rtOf_ofNat, rdOf_ofNat, shamtOf_ofNat, functOf_ofNat, and_full6] at h
  simp [decodeWord, h]

theorem encodedAs_blez : EncodedAs 0xFC1F0000#32 0x18000000#32
    (fun w => .blez (rsOf w) (immOf w)) := by
  refine encodedAs_of_row _ _ _ .blez rfl (fun _ => rfl) fun w h => ?_
  rw [mask_iff] at h
  simp [opcodeOf_ofNat, rsOf_ofNat, rtOf_ofNat, rdOf_ofNat, shamtOf_ofNat, functOf_ofNat, and_full5, and_full6] at h
  simp [decodeWord, ifZero, h]

theorem encodedAs_bgtz : EncodedAs 0xFC1F0000#32 0x1C000000#32
    (fun w => .bgtz (rsOf w) (immOf w)) := by
  refine encodedAs_of_row _ _ _ .bgtz rfl (fun _ => rfl) fun w h => ?_
  rw [mask_iff] at h
  simp [opcodeOf_ofNat, rsOf_ofNat, rtOf_ofNat, rdOf_ofNat, shamtOf_ofNat, functOf_ofNat, and_full5, and_full6] at h
  simp [decodeWord, ifZero, h]

theorem encodedAs_addi : EncodedAs 0xFC000000#32 0x20000000#32
    (fun w => .addi (rtOf w) (rsOf w) (immOf w)) := by
  refine encodedAs_of_row _ _ _ .addi rfl (fun _ => rfl) fun w h => ?_
  rw [mask_iff] at h
  simp [opcodeOf_ofNat, rsOf_ofNat, rtOf_ofNat, rdOf_ofNat, shamtOf_ofNat, functOf_ofNat, and_full6] at h
  simp [decodeWord, h]

theorem encodedAs_addiu : EncodedAs 0xFC000000#32 0x24000000#32
    (fun w => .addiu (rtOf w) (rsOf w) (immOf w)) := by
  refine encodedAs_of_row _ _ _ .addiu rfl (fun _ => rfl) fun w h => ?_
  rw [mask_iff] at h
  simp [opcodeOf_ofNat, rsOf_ofNat, rtOf_ofNat, rdOf_ofNat, shamtOf_ofNat, functOf_ofNat, and_full6] at h
  simp [decodeWord, h]

theorem encodedAs_slti : EncodedAs 0xFC000000#32 0x28000000#32
    (fun w => .slti (rtOf w) (rsOf w) (immOf w)) := by
  refine encodedAs_of_row _ _ _ .slti rfl (fun _ => rfl) fun w h => ?_
  rw [mask_iff] at h
  simp [opcodeOf_ofNat, rsOf_ofNat, rtOf_ofNat, rdOf_ofNat, shamtOf_ofNat, functOf_ofNat, and_full6] at h
  simp [decodeWord, h]

theorem encodedAs_sltiu : EncodedAs 0xFC000000#32 0x2C000000#32
    (fun w => .sltiu (rtOf w) (rsOf w) (immOf w)) := by
  refine encodedAs_of_row _ _ _ .sltiu rfl (fun _ => rfl) fun w h => ?_
  rw [mask_iff] at h
  simp [opcodeOf_ofNat, rsOf_ofNat, rtOf_ofNat, rdOf_ofNat, shamtOf_ofNat, functOf_ofNat, and_full6] at h
  simp [decodeWord, h]

theorem encodedAs_andi : EncodedAs 0xFC000000#32 0x30000000#32
    (fun w => .andi (rtOf w) (rsOf w) (immOf w)) := by
  refine encodedAs_of_row _ _ _ .andi rfl (fun _ => rfl) fun w h => ?_
  rw [mask_iff] at h
  simp [opcodeOf_ofNat, rsOf_ofNat, rtOf_ofNat, rdOf_ofNat, shamtOf_ofNat, functOf_ofNat, and_full6] at h
  simp [decodeWord, h]

theorem encodedAs_ori : EncodedAs 0xFC000000#32 0x34000000#32
    (fun w => .ori (rtOf w) (rsOf w) (immOf w)) := by
  refine encodedAs_of_row _ _ _ .ori rfl (fun _ => rfl) fun w h => ?_
  rw [mask_iff] at h
  simp [opcodeOf_ofNat, rsOf_ofNat, rtOf_ofNat, rdOf_ofNat, shamtOf_ofNat, functOf_ofNat, and_full6] at h
  simp [decodeWord, h]

theorem encodedAs_xori : EncodedAs 0xFC000000#32 0x38000000#32
    (fun w => .xori (rtOf w) (rsOf w) (immOf w)) := by
  refine encodedAs_of_row _ _ _ .xori rfl (fun _ => rfl) fun w h => ?_
  rw [mask_iff] at h
  simp [opcodeOf_ofNat, rsOf_ofNat, rtOf_ofNat, rdOf_ofNat, shamtOf_ofNat, functOf_ofNat, and_full6] at h
  simp [decodeWord, h]

theorem encodedAs_lui : EncodedAs 0xFFE00000#32 0x3C000000#32
    (fun w => .lui (rtOf w) (immOf w)) := by
  refine encodedAs_of_row _ _ _ .lui rfl (fun _ => rfl) fun w h => ?_
  rw [mask_iff] at h
  simp [opcodeOf_ofNat, rsOf_ofNat, rtOf_ofNat, rdOf_ofNat, shamtOf_ofNat, functOf_ofNat, and_full5, and_full6] at h
  simp [decodeWord, ifZero, h]

theorem encodedAs_mfc0 : EncodedAs 0xFFE007FF#32 0x40000000#32
    (fun w => .mfc0 (rtOf w) (rdOf w)) := by
  refine encodedAs_of_row _ _ _ .mfc0 rfl (fun _ => rfl) fun w h => ?_
  rw [mask_iff] at h
  simp [opcodeOf_ofNat, rsOf_ofNat, rtOf_ofNat, rdOf_ofNat, shamtOf_ofNat, functOf_ofNat, and_full5, and_full6] at h
  simp [decodeWord, decodeCop0, low11_eq_zero, ifZero, h]

theorem encodedAs_mtc0 : EncodedAs 0xFFE007FF#32 0x40800000#32
    (fun w => .mtc0 (rtOf w) (rdOf w)) := by
  refine encodedAs_of_row _ _ _ .mtc0 rfl (fun _ => rfl) fun w h => ?_
  rw [mask_iff] at h
  simp [opcodeOf_ofNat, rsOf_ofNat, rtOf_ofNat, rdOf_ofNat, shamtOf_ofNat, functOf_ofNat, and_full5, and_full6] at h
  simp [decodeWord, decodeCop0, low11_eq_zero, ifZero, h]

theorem encodedAs_eret : EncodedAs 0xFFFFFFFF#32 0x42000018#32
    (fun _ => .eret) := by
  refine encodedAs_of_row _ _ _ .eret rfl (fun _ => rfl) fun w h => ?_
  rw [show (0xFFFFFFFF#32 : Word) = BitVec.allOnes 32 from rfl, BitVec.and_allOnes] at h
  subst h
  decide

theorem encodedAs_lb : EncodedAs 0xFC000000#32 0x80000000#32
    (fun w => .lb (rtOf w) (immOf w) (rsOf w)) := by
  refine encodedAs_of_row _ _ _ .lb rfl (fun _ => rfl) fun w h => ?_
  rw [mask_iff] at h
  simp [opcodeOf_ofNat, rsOf_ofNat, rtOf_ofNat, rdOf_ofNat, shamtOf_ofNat, functOf_ofNat, and_full6] at h
  simp [decodeWord, h]

theorem encodedAs_lh : EncodedAs 0xFC000000#32 0x84000000#32
    (fun w => .lh (rtOf w) (immOf w) (rsOf w)) := by
  refine encodedAs_of_row _ _ _ .lh rfl (fun _ => rfl) fun w h => ?_
  rw [mask_iff] at h
  simp [opcodeOf_ofNat, rsOf_ofNat, rtOf_ofNat, rdOf_ofNat, shamtOf_ofNat, functOf_ofNat, and_full6] at h
  simp [decodeWord, h]

theorem encodedAs_lw : EncodedAs 0xFC000000#32 0x8C000000#32
    (fun w => .lw (rtOf w) (immOf w) (rsOf w)) := by
  refine encodedAs_of_row _ _ _ .lw rfl (fun _ => rfl) fun w h => ?_
  rw [mask_iff] at h
  simp [opcodeOf_ofNat, rsOf_ofNat, rtOf_ofNat, rdOf_ofNat, shamtOf_ofNat, functOf_ofNat, and_full6] at h
  simp [decodeWord, h]

theorem encodedAs_lbu : EncodedAs 0xFC000000#32 0x90000000#32
    (fun w => .lbu (rtOf w) (immOf w) (rsOf w)) := by
  refine encodedAs_of_row _ _ _ .lbu rfl (fun _ => rfl) fun w h => ?_
  rw [mask_iff] at h
  simp [opcodeOf_ofNat, rsOf_ofNat, rtOf_ofNat, rdOf_ofNat, shamtOf_ofNat, functOf_ofNat, and_full6] at h
  simp [decodeWord, h]

theorem encodedAs_lhu : EncodedAs 0xFC000000#32 0x94000000#32
    (fun w => .lhu (rtOf w) (immOf w) (rsOf w)) := by
  refine encodedAs_of_row _ _ _ .lhu rfl (fun _ => rfl) fun w h => ?_
  rw [mask_iff] at h
  simp [opcodeOf_ofNat, rsOf_ofNat, rtOf_ofNat, rdOf_ofNat, shamtOf_ofNat, functOf_ofNat, and_full6] at h
  simp [decodeWord, h]

theorem encodedAs_sb : EncodedAs 0xFC000000#32 0xA0000000#32
    (fun w => .sb (rtOf w) (immOf w) (rsOf w)) := by
  refine encodedAs_of_row _ _ _ .sb rfl (fun _ => rfl) fun w h => ?_
  rw [mask_iff] at h
  simp [opcodeOf_ofNat, rsOf_ofNat, rtOf_ofNat, rdOf_ofNat, shamtOf_ofNat, functOf_ofNat, and_full6] at h
  simp [decodeWord, h]

theorem encodedAs_sh : EncodedAs 0xFC000000#32 0xA4000000#32
    (fun w => .sh (rtOf w) (immOf w) (rsOf w)) := by
  refine encodedAs_of_row _ _ _ .sh rfl (fun _ => rfl) fun w h => ?_
  rw [mask_iff] at h
  simp [opcodeOf_ofNat, rsOf_ofNat, rtOf_ofNat, rdOf_ofNat, shamtOf_ofNat, functOf_ofNat, and_full6] at h
  simp [decodeWord, h]

theorem encodedAs_sw : EncodedAs 0xFC000000#32 0xAC000000#32
    (fun w => .sw (rtOf w) (immOf w) (rsOf w)) := by
  refine encodedAs_of_row _ _ _ .sw rfl (fun _ => rfl) fun w h => ?_
  rw [mask_iff] at h
  simp [opcodeOf_ofNat, rsOf_ofNat, rtOf_ofNat, rdOf_ofNat, shamtOf_ofNat, functOf_ofNat, and_full6] at h
  simp [decodeWord, h]

end Machine

end Sys2Proof
end

