-- ==== Sys2Proof/Laws/Encoding.lean ====
section
/-! SUPPORT. The fields of an encoded word (R81 to R86): each field that a format writes is the field that the
decoder reads, and what a word keeps under a mask given field by field. -/

namespace Sys2Proof

theorem opcodeOf_encodeR (rs rt rd s : BitVec 5) (f : BitVec 6) : opcodeOf (encodeR rs rt rd s f) = 0#6 := by
  unfold opcodeOf encodeR
  repeat (rw [BitVec.extractLsb'_append_eq_ite]; simp)

theorem rsOf_encodeR (rs rt rd s : BitVec 5) (f : BitVec 6) : rsOf (encodeR rs rt rd s f) = rs := by
  unfold rsOf encodeR
  repeat (rw [BitVec.extractLsb'_append_eq_ite]; simp)

theorem rtOf_encodeR (rs rt rd s : BitVec 5) (f : BitVec 6) : rtOf (encodeR rs rt rd s f) = rt := by
  unfold rtOf encodeR
  repeat (rw [BitVec.extractLsb'_append_eq_ite]; simp)

theorem rdOf_encodeR (rs rt rd s : BitVec 5) (f : BitVec 6) : rdOf (encodeR rs rt rd s f) = rd := by
  unfold rdOf encodeR
  repeat (rw [BitVec.extractLsb'_append_eq_ite]; simp)

theorem shamtOf_encodeR (rs rt rd s : BitVec 5) (f : BitVec 6) : shamtOf (encodeR rs rt rd s f) = s := by
  unfold shamtOf encodeR
  repeat (rw [BitVec.extractLsb'_append_eq_ite]; simp)

theorem functOf_encodeR (rs rt rd s : BitVec 5) (f : BitVec 6) : functOf (encodeR rs rt rd s f) = f := by
  unfold functOf encodeR
  repeat (rw [BitVec.extractLsb'_append_eq_ite]; simp)

theorem opcodeOf_encodeI (op : BitVec 6) (rs rt : Reg) (imm : Half) : opcodeOf (encodeI op rs rt imm) = op := by
  unfold opcodeOf encodeI
  repeat (rw [BitVec.extractLsb'_append_eq_ite]; simp)

theorem rsOf_encodeI (op : BitVec 6) (rs rt : Reg) (imm : Half) : rsOf (encodeI op rs rt imm) = rs := by
  unfold rsOf encodeI
  repeat (rw [BitVec.extractLsb'_append_eq_ite]; simp)

theorem rtOf_encodeI (op : BitVec 6) (rs rt : Reg) (imm : Half) : rtOf (encodeI op rs rt imm) = rt := by
  unfold rtOf encodeI
  repeat (rw [BitVec.extractLsb'_append_eq_ite]; simp)

theorem immOf_encodeI (op : BitVec 6) (rs rt : Reg) (imm : Half) : immOf (encodeI op rs rt imm) = imm := by
  unfold immOf encodeI
  repeat (rw [BitVec.extractLsb'_append_eq_ite]; simp)

theorem opcodeOf_encodeJ (op : BitVec 6) (index : BitVec 26) : opcodeOf (encodeJ op index) = op := by
  unfold opcodeOf encodeJ
  repeat (rw [BitVec.extractLsb'_append_eq_ite]; simp)

theorem indexOf_encodeJ (op : BitVec 6) (index : BitVec 26) : indexOf (encodeJ op index) = index := by
  unfold indexOf encodeJ
  repeat (rw [BitVec.extractLsb'_append_eq_ite]; simp)

theorem opcodeOf_encodeCode (code : BitVec 20) (f : BitVec 6) : opcodeOf (encodeCode code f) = 0#6 := by
  unfold opcodeOf encodeCode
  repeat (rw [BitVec.extractLsb'_append_eq_ite]; simp)

theorem codeOf_encodeCode (code : BitVec 20) (f : BitVec 6) : codeOf (encodeCode code f) = code := by
  unfold codeOf encodeCode
  repeat (rw [BitVec.extractLsb'_append_eq_ite]; simp)

theorem functOf_encodeCode (code : BitVec 20) (f : BitVec 6) : functOf (encodeCode code f) = f := by
  unfold functOf encodeCode
  repeat (rw [BitVec.extractLsb'_append_eq_ite]; simp)

theorem opcodeOf_encodeCop0 (sel rt rd : Reg) : opcodeOf (encodeCop0 sel rt rd) = 0x10#6 := by
  unfold opcodeOf encodeCop0
  repeat (rw [BitVec.extractLsb'_append_eq_ite]; simp)

theorem rsOf_encodeCop0 (sel rt rd : Reg) : rsOf (encodeCop0 sel rt rd) = sel := by
  unfold rsOf encodeCop0
  repeat (rw [BitVec.extractLsb'_append_eq_ite]; simp)

theorem rtOf_encodeCop0 (sel rt rd : Reg) : rtOf (encodeCop0 sel rt rd) = rt := by
  unfold rtOf encodeCop0
  repeat (rw [BitVec.extractLsb'_append_eq_ite]; simp)

theorem rdOf_encodeCop0 (sel rt rd : Reg) : rdOf (encodeCop0 sel rt rd) = rd := by
  unfold rdOf encodeCop0
  repeat (rw [BitVec.extractLsb'_append_eq_ite]; simp)

theorem low11_encodeCop0 (sel rt rd : Reg) : (encodeCop0 sel rt rd).extractLsb' 0 11 = 0#11 := by
  unfold encodeCop0
  repeat (rw [BitVec.extractLsb'_append_eq_ite]; simp)

theorem encodeR_and (rs rt rd s m1 m2 m3 m4 : BitVec 5) (f m0 m5 : BitVec 6) :
    encodeR rs rt rd s f &&& (m0 ++ m1 ++ m2 ++ m3 ++ m4 ++ m5) =
      encodeR (rs &&& m1) (rt &&& m2) (rd &&& m3) (s &&& m4) (f &&& m5) := by
  unfold encodeR
  iterate 5 rw [BitVec.and_append]
  simp

theorem encodeI_and (op m0 : BitVec 6) (rs rt m1 m2 : Reg) (imm m3 : Half) :
    encodeI op rs rt imm &&& (m0 ++ m1 ++ m2 ++ m3) = encodeI (op &&& m0) (rs &&& m1) (rt &&& m2) (imm &&& m3) := by
  unfold encodeI
  iterate 3 rw [BitVec.and_append]

theorem encodeJ_and (op m0 : BitVec 6) (index m1 : BitVec 26) :
    encodeJ op index &&& (m0 ++ m1) = encodeJ (op &&& m0) (index &&& m1) := by
  unfold encodeJ
  rw [BitVec.and_append]

theorem encodeCode_and (code m1 : BitVec 20) (f m0 m2 : BitVec 6) :
    encodeCode code f &&& (m0 ++ m1 ++ m2) = encodeCode (code &&& m1) (f &&& m2) := by
  unfold encodeCode
  iterate 2 rw [BitVec.and_append]
  simp

theorem encodeCop0_and (sel rt rd m1 m2 m3 : Reg) (m4 : BitVec 11) :
    encodeCop0 sel rt rd &&& (0x3F#6 ++ m1 ++ m2 ++ m3 ++ m4) = encodeCop0 (sel &&& m1) (rt &&& m2) (rd &&& m3) := by
  unfold encodeCop0
  iterate 4 rw [BitVec.and_append]
  simp

end Sys2Proof
end

