-- ==== Sys2Proof/Laws/State.lean ====
section
/-! SUPPORT. One lemma per field of the state and per update, each true by `rfl`, so that no proof unfolds a
record update; and the same for reading a register or a CP0 cell through an update that does not touch it. -/

namespace Sys2Proof.Machine

/-! #### writeReg -/

@[simp] theorem State.writeReg_hi (s : State) (r : Reg) (v : Word) : (s.writeReg r v).hi = s.hi := rfl
@[simp] theorem State.writeReg_lo (s : State) (r : Reg) (v : Word) : (s.writeReg r v).lo = s.lo := rfl
@[simp] theorem State.writeReg_pc (s : State) (r : Reg) (v : Word) : (s.writeReg r v).pc = s.pc := rfl
@[simp] theorem State.writeReg_cp0 (s : State) (r : Reg) (v : Word) : (s.writeReg r v).cp0 = s.cp0 := rfl
@[simp] theorem State.writeReg_dmem (s : State) (r : Reg) (v : Word) : (s.writeReg r v).dmem = s.dmem := rfl
@[simp] theorem State.writeReg_cfg (s : State) (r : Reg) (v : Word) : (s.writeReg r v).cfg = s.cfg := rfl
@[simp] theorem State.writeReg_draws (s : State) (r : Reg) (v : Word) : (s.writeReg r v).draws = s.draws := rfl
@[simp] theorem State.writeReg_readCp0 (s : State) (r : Reg) (v : Word) (c : Reg) : (s.writeReg r v).readCp0 c = s.readCp0 c := rfl

/-! #### setHi -/

@[simp] theorem State.setHi_gpr (s : State) (v : Word) : (s.setHi v).gpr = s.gpr := rfl
@[simp] theorem State.setHi_hi (s : State) (v : Word) : (s.setHi v).hi = v := rfl
@[simp] theorem State.setHi_lo (s : State) (v : Word) : (s.setHi v).lo = s.lo := rfl
@[simp] theorem State.setHi_pc (s : State) (v : Word) : (s.setHi v).pc = s.pc := rfl
@[simp] theorem State.setHi_cp0 (s : State) (v : Word) : (s.setHi v).cp0 = s.cp0 := rfl
@[simp] theorem State.setHi_dmem (s : State) (v : Word) : (s.setHi v).dmem = s.dmem := rfl
@[simp] theorem State.setHi_cfg (s : State) (v : Word) : (s.setHi v).cfg = s.cfg := rfl
@[simp] theorem State.setHi_draws (s : State) (v : Word) : (s.setHi v).draws = s.draws := rfl
@[simp] theorem State.setHi_readReg (s : State) (v : Word) (q : Reg) : (s.setHi v).readReg q = s.readReg q := rfl
@[simp] theorem State.setHi_readCp0 (s : State) (v : Word) (c : Reg) : (s.setHi v).readCp0 c = s.readCp0 c := rfl

/-! #### setLo -/

@[simp] theorem State.setLo_gpr (s : State) (v : Word) : (s.setLo v).gpr = s.gpr := rfl
@[simp] theorem State.setLo_hi (s : State) (v : Word) : (s.setLo v).hi = s.hi := rfl
@[simp] theorem State.setLo_lo (s : State) (v : Word) : (s.setLo v).lo = v := rfl
@[simp] theorem State.setLo_pc (s : State) (v : Word) : (s.setLo v).pc = s.pc := rfl
@[simp] theorem State.setLo_cp0 (s : State) (v : Word) : (s.setLo v).cp0 = s.cp0 := rfl
@[simp] theorem State.setLo_dmem (s : State) (v : Word) : (s.setLo v).dmem = s.dmem := rfl
@[simp] theorem State.setLo_cfg (s : State) (v : Word) : (s.setLo v).cfg = s.cfg := rfl
@[simp] theorem State.setLo_draws (s : State) (v : Word) : (s.setLo v).draws = s.draws := rfl
@[simp] theorem State.setLo_readReg (s : State) (v : Word) (q : Reg) : (s.setLo v).readReg q = s.readReg q := rfl
@[simp] theorem State.setLo_readCp0 (s : State) (v : Word) (c : Reg) : (s.setLo v).readCp0 c = s.readCp0 c := rfl

/-! #### setPc -/

@[simp] theorem State.setPc_gpr (s : State) (v : Word) : (s.setPc v).gpr = s.gpr := rfl
@[simp] theorem State.setPc_hi (s : State) (v : Word) : (s.setPc v).hi = s.hi := rfl
@[simp] theorem State.setPc_lo (s : State) (v : Word) : (s.setPc v).lo = s.lo := rfl
@[simp] theorem State.setPc_pc (s : State) (v : Word) : (s.setPc v).pc = v := rfl
@[simp] theorem State.setPc_cp0 (s : State) (v : Word) : (s.setPc v).cp0 = s.cp0 := rfl
@[simp] theorem State.setPc_dmem (s : State) (v : Word) : (s.setPc v).dmem = s.dmem := rfl
@[simp] theorem State.setPc_cfg (s : State) (v : Word) : (s.setPc v).cfg = s.cfg := rfl
@[simp] theorem State.setPc_draws (s : State) (v : Word) : (s.setPc v).draws = s.draws := rfl
@[simp] theorem State.setPc_readReg (s : State) (v : Word) (q : Reg) : (s.setPc v).readReg q = s.readReg q := rfl
@[simp] theorem State.setPc_readCp0 (s : State) (v : Word) (c : Reg) : (s.setPc v).readCp0 c = s.readCp0 c := rfl

/-! #### advance -/

@[simp] theorem State.advance_gpr (s : State) : (s.advance).gpr = s.gpr := rfl
@[simp] theorem State.advance_hi (s : State) : (s.advance).hi = s.hi := rfl
@[simp] theorem State.advance_lo (s : State) : (s.advance).lo = s.lo := rfl
@[simp] theorem State.advance_pc (s : State) : (s.advance).pc = s.pc + 4#32 := rfl
@[simp] theorem State.advance_cp0 (s : State) : (s.advance).cp0 = s.cp0 := rfl
@[simp] theorem State.advance_dmem (s : State) : (s.advance).dmem = s.dmem := rfl
@[simp] theorem State.advance_cfg (s : State) : (s.advance).cfg = s.cfg := rfl
@[simp] theorem State.advance_draws (s : State) : (s.advance).draws = s.draws := rfl
@[simp] theorem State.advance_readReg (s : State) (q : Reg) : (s.advance).readReg q = s.readReg q := rfl
@[simp] theorem State.advance_readCp0 (s : State) (c : Reg) : (s.advance).readCp0 c = s.readCp0 c := rfl

/-! #### setCp0 -/

@[simp] theorem State.setCp0_gpr (s : State) (f : Cp0File) : (s.setCp0 f).gpr = s.gpr := rfl
@[simp] theorem State.setCp0_hi (s : State) (f : Cp0File) : (s.setCp0 f).hi = s.hi := rfl
@[simp] theorem State.setCp0_lo (s : State) (f : Cp0File) : (s.setCp0 f).lo = s.lo := rfl
@[simp] theorem State.setCp0_pc (s : State) (f : Cp0File) : (s.setCp0 f).pc = s.pc := rfl
@[simp] theorem State.setCp0_cp0 (s : State) (f : Cp0File) : (s.setCp0 f).cp0 = f := rfl
@[simp] theorem State.setCp0_dmem (s : State) (f : Cp0File) : (s.setCp0 f).dmem = s.dmem := rfl
@[simp] theorem State.setCp0_cfg (s : State) (f : Cp0File) : (s.setCp0 f).cfg = s.cfg := rfl
@[simp] theorem State.setCp0_draws (s : State) (f : Cp0File) : (s.setCp0 f).draws = s.draws := rfl
@[simp] theorem State.setCp0_readReg (s : State) (f : Cp0File) (q : Reg) : (s.setCp0 f).readReg q = s.readReg q := rfl

/-! #### setDmem -/

@[simp] theorem State.setDmem_gpr (s : State) (m : Memory) : (s.setDmem m).gpr = s.gpr := rfl
@[simp] theorem State.setDmem_hi (s : State) (m : Memory) : (s.setDmem m).hi = s.hi := rfl
@[simp] theorem State.setDmem_lo (s : State) (m : Memory) : (s.setDmem m).lo = s.lo := rfl
@[simp] theorem State.setDmem_pc (s : State) (m : Memory) : (s.setDmem m).pc = s.pc := rfl
@[simp] theorem State.setDmem_cp0 (s : State) (m : Memory) : (s.setDmem m).cp0 = s.cp0 := rfl
@[simp] theorem State.setDmem_dmem (s : State) (m : Memory) : (s.setDmem m).dmem = m := rfl
@[simp] theorem State.setDmem_cfg (s : State) (m : Memory) : (s.setDmem m).cfg = s.cfg := rfl
@[simp] theorem State.setDmem_draws (s : State) (m : Memory) : (s.setDmem m).draws = s.draws := rfl
@[simp] theorem State.setDmem_readReg (s : State) (m : Memory) (q : Reg) : (s.setDmem m).readReg q = s.readReg q := rfl
@[simp] theorem State.setDmem_readCp0 (s : State) (m : Memory) (c : Reg) : (s.setDmem m).readCp0 c = s.readCp0 c := rfl

/-! #### writeCp0 -/

@[simp] theorem State.writeCp0_gpr (s : State) (i : Reg) (v : Word) : (s.writeCp0 i v).gpr = s.gpr := rfl
@[simp] theorem State.writeCp0_hi (s : State) (i : Reg) (v : Word) : (s.writeCp0 i v).hi = s.hi := rfl
@[simp] theorem State.writeCp0_lo (s : State) (i : Reg) (v : Word) : (s.writeCp0 i v).lo = s.lo := rfl
@[simp] theorem State.writeCp0_pc (s : State) (i : Reg) (v : Word) : (s.writeCp0 i v).pc = s.pc := rfl
@[simp] theorem State.writeCp0_cp0 (s : State) (i : Reg) (v : Word) : (s.writeCp0 i v).cp0 = cp0Put s.cp0 i v := rfl
@[simp] theorem State.writeCp0_dmem (s : State) (i : Reg) (v : Word) : (s.writeCp0 i v).dmem = s.dmem := rfl
@[simp] theorem State.writeCp0_cfg (s : State) (i : Reg) (v : Word) : (s.writeCp0 i v).cfg = s.cfg := rfl
@[simp] theorem State.writeCp0_draws (s : State) (i : Reg) (v : Word) : (s.writeCp0 i v).draws = s.draws := rfl
@[simp] theorem State.writeCp0_readReg (s : State) (i : Reg) (v : Word) (q : Reg) : (s.writeCp0 i v).readReg q = s.readReg q := rfl

/-! #### raise, exceptionReturn, putText, resetWith -/

@[simp] theorem raise_gpr (e : Exc) (s : State) : (raise e s).gpr = s.gpr := rfl
@[simp] theorem raise_hi (e : Exc) (s : State) : (raise e s).hi = s.hi := rfl
@[simp] theorem raise_lo (e : Exc) (s : State) : (raise e s).lo = s.lo := rfl
@[simp] theorem raise_pc (e : Exc) (s : State) : (raise e s).pc = s.cfg.excVector := rfl
@[simp] theorem raise_dmem (e : Exc) (s : State) : (raise e s).dmem = s.dmem := rfl
@[simp] theorem raise_cfg (e : Exc) (s : State) : (raise e s).cfg = s.cfg := rfl
@[simp] theorem raise_draws (e : Exc) (s : State) : (raise e s).draws = s.draws := rfl
@[simp] theorem raise_readReg (e : Exc) (s : State) (q : Reg) : (raise e s).readReg q = s.readReg q := rfl
@[simp] theorem exceptionReturn_gpr (s : State) : (exceptionReturn s).gpr = s.gpr := rfl
@[simp] theorem exceptionReturn_hi (s : State) : (exceptionReturn s).hi = s.hi := rfl
@[simp] theorem exceptionReturn_lo (s : State) : (exceptionReturn s).lo = s.lo := rfl
@[simp] theorem exceptionReturn_pc (s : State) : (exceptionReturn s).pc = s.epc := rfl
@[simp] theorem exceptionReturn_dmem (s : State) : (exceptionReturn s).dmem = s.dmem := rfl
@[simp] theorem exceptionReturn_cfg (s : State) : (exceptionReturn s).cfg = s.cfg := rfl
@[simp] theorem exceptionReturn_draws (s : State) : (exceptionReturn s).draws = s.draws := rfl
@[simp] theorem exceptionReturn_readReg (s : State) (q : Reg) : (exceptionReturn s).readReg q = s.readReg q := rfl
@[simp] theorem exceptionReturn_cp0 (s : State) : (exceptionReturn s).cp0 = cp0OnReturn s.cfg s.cp0 := rfl
@[simp] theorem resetWith_pc (cfg : Config) : (State.resetWith cfg).pc = cfg.resetPc := rfl
@[simp] theorem resetWith_dmem (cfg : Config) : (State.resetWith cfg).dmem = [] := rfl
@[simp] theorem resetWith_cfg (cfg : Config) : (State.resetWith cfg).cfg = cfg := rfl

/-! #### afterRead: only the draw counter can move -/

@[simp] theorem State.afterRead_gpr (s : State) (a n : Nat) : (s.afterRead a n).gpr = s.gpr := by
  unfold State.afterRead; split <;> rfl
@[simp] theorem State.afterRead_hi (s : State) (a n : Nat) : (s.afterRead a n).hi = s.hi := by
  unfold State.afterRead; split <;> rfl
@[simp] theorem State.afterRead_lo (s : State) (a n : Nat) : (s.afterRead a n).lo = s.lo := by
  unfold State.afterRead; split <;> rfl
@[simp] theorem State.afterRead_pc (s : State) (a n : Nat) : (s.afterRead a n).pc = s.pc := by
  unfold State.afterRead; split <;> rfl
@[simp] theorem State.afterRead_cp0 (s : State) (a n : Nat) : (s.afterRead a n).cp0 = s.cp0 := by
  unfold State.afterRead; split <;> rfl
@[simp] theorem State.afterRead_dmem (s : State) (a n : Nat) : (s.afterRead a n).dmem = s.dmem := by
  unfold State.afterRead; split <;> rfl
@[simp] theorem State.afterRead_cfg (s : State) (a n : Nat) : (s.afterRead a n).cfg = s.cfg := by
  unfold State.afterRead; split <;> rfl
@[simp] theorem State.afterRead_readReg (s : State) (a n : Nat) (q : Reg) :
    (s.afterRead a n).readReg q = s.readReg q := by unfold State.afterRead; split <;> rfl
@[simp] theorem State.afterRead_readCp0 (s : State) (a n : Nat) (c : Reg) :
    (s.afterRead a n).readCp0 c = s.readCp0 c := by unfold State.afterRead; split <;> rfl

end Sys2Proof.Machine
end

