-- ==== Sys2Proof/Laws/Memory.lean ====
section
/-! SUPPORT. The laws of memory: reading after a write, and that every memory operation keeps the canonical
form (R32, R55, R56). -/

namespace Sys2Proof

@[simp] theorem Memory.read_nil (k : Nat) : Memory.read [] k = none := rfl

/-- Reading one byte after a write. -/
theorem Memory.read_write (m : Memory) (k : Nat) (v : Byte) (a : Nat) :
    Memory.read (Memory.write m k v) a = if a = k then some v else Memory.read m a := by
  induction m with
  | nil => simp [Memory.write, Memory.read]
  | cons c m ih =>
    obtain ⟨x, b⟩ := c
    simp only [Memory.write]
    by_cases ha : a = k
    · subst ha
      by_cases h1 : a < x
      · simp [Memory.read, h1]
      by_cases h2 : a = x
      · simp [Memory.read, h2]
      · simp [Memory.read, h1, h2, ih]
    · by_cases h1 : k < x
      · simp [Memory.read, ha, h1]
      by_cases h2 : k = x
      · subst h2; simp [Memory.read, ha]
      · simp [Memory.read, ha, h1, h2, ih]

@[simp] theorem Memory.read_write_same (m : Memory) (k : Nat) (v : Byte) :
    Memory.read (Memory.write m k v) k = some v := by simp [Memory.read_write]

theorem Memory.read_write_other (m : Memory) (k : Nat) (v : Byte) (a : Nat) (h : a ≠ k) :
    Memory.read (Memory.write m k v) a = Memory.read m a := by simp [Memory.read_write, h]

/-- The listed cells after a write: the new one, or old ones. -/
theorem Memory.mem_write {m : Memory} {k : Nat} {v : Byte} {c : Host.Cell} (h : c ∈ Memory.write m k v) :
    c = (k, v) ∨ c ∈ m := by
  induction m with
  | nil => simpa [Memory.write] using h
  | cons d m ih =>
    obtain ⟨x, b⟩ := d
    simp only [Memory.write] at h
    split_ifs at h <;> simp only [List.mem_cons] at h ⊢
    · tauto
    · tauto
    · rcases h with h | h
      · tauto
      · rcases ih h with h | h <;> tauto

/-- The canonical form, as a pairwise order of addresses. -/
theorem Memory.wf_iff (m : Memory) : Memory.wf m = true ↔ m.Pairwise (fun c d => c.1 < d.1) := by
  induction m with
  | nil => simp [Memory.wf]
  | cons c m ih =>
    cases m with
    | nil => simp [Memory.wf]
    | cons d m =>
      simp only [Memory.wf, Bool.and_eq_true, decide_eq_true_eq, ih, List.pairwise_cons]
      constructor
      · rintro ⟨h, h1, h2⟩
        refine ⟨fun x hx => ?_, h1, h2⟩
        rcases List.mem_cons.1 hx with rfl | hx
        · exact h
        · exact lt_trans h (h1 x hx)
      · rintro ⟨h, h1, h2⟩
        exact ⟨h d (by simp), h1, h2⟩

/-- A write keeps the canonical form. -/
theorem Memory.wf_write (m : Memory) (k : Nat) (v : Byte) (h : Memory.wf m = true) :
    Memory.wf (Memory.write m k v) = true := by
  rw [Memory.wf_iff] at h ⊢
  induction m with
  | nil => simp [Memory.write]
  | cons c m ih =>
    obtain ⟨x, b⟩ := c
    obtain ⟨h1, h2⟩ := List.pairwise_cons.1 h
    simp only [Memory.write]
    split_ifs with hlt heq
    · refine List.pairwise_cons.2 ⟨fun d hd => ?_, h⟩
      rcases List.mem_cons.1 hd with rfl | hd
      · exact hlt
      · exact lt_trans hlt (h1 d hd)
    · subst heq; exact List.pairwise_cons.2 ⟨h1, h2⟩
    · refine List.pairwise_cons.2 ⟨fun d hd => ?_, ih h2⟩
      rcases Memory.mem_write hd with rfl | hd
      · show x < k; omega
      · exact h1 d hd

/-- A write of several bytes keeps the canonical form. -/
theorem Memory.wf_writeBytes (bs : List Byte) :
    ∀ (m : Memory) (k : Nat), Memory.wf m = true → Memory.wf (Memory.writeBytes m k bs) = true := by
  induction bs with
  | nil => intro m k h; exact h
  | cons b bs ih => intro m k h; exact ih _ _ (Memory.wf_write m k b h)

/-- Reading one byte after several were written. -/
theorem Memory.read_writeBytes (bs : List Byte) : ∀ (m : Memory) (k a : Nat),
    Memory.read (Memory.writeBytes m k bs) a =
      if k ≤ a ∧ a < k + bs.length then bs[a - k]? else Memory.read m a := by
  induction bs with
  | nil => intro m k a; simp [Memory.writeBytes]
  | cons b bs ih =>
    intro m k a
    simp only [Memory.writeBytes, ih, Memory.read_write, List.length_cons]
    by_cases h1 : a = k
    · subst h1; simp
    · by_cases h2 : k + 1 ≤ a ∧ a < k + 1 + bs.length
      · have h3 : k ≤ a ∧ a < k + (bs.length + 1) := by omega
        have h4 : a - k = (a - (k + 1)) + 1 := by omega
        simp only [h2, h3, and_self, if_true]
        rw [h4, List.getElem?_cons_succ]
      · have h3 : ¬ (k ≤ a ∧ a < k + (bs.length + 1)) := by omega
        rw [if_neg h2, if_neg h1, if_neg h3]

/-- The listed cells after several bytes were written: addresses in the span, or old cells. -/
theorem Memory.mem_writeBytes (bs : List Byte) : ∀ (m : Memory) (k : Nat) (c : Host.Cell),
    c ∈ Memory.writeBytes m k bs → (k ≤ c.1 ∧ c.1 < k + bs.length) ∨ c ∈ m := by
  induction bs with
  | nil => intro m k c h; exact .inr h
  | cons b bs ih =>
    intro m k c h
    simp only [List.length_cons]
    rcases ih _ _ _ h with h | h
    · left; omega
    · rcases Memory.mem_write h with rfl | h
      · left; simp
      · exact .inr h

end Sys2Proof
end

