-- ==== Sys2Proof/Laws/Registers.lean ====
section
/-! SUPPORT. What reading a register or a CP0 cell gives after a write (R21, R29). -/

namespace Sys2Proof.Machine

@[simp] theorem readReg_zero (s : State) : s.readReg 0#5 = 0#32 := rfl

/-- Reading after a write: the value written, but for `x[0]`, which reads 0 and keeps nothing (R21). -/
theorem readReg_writeReg (s : State) (r q : Reg) (v : Word) :
    (s.writeReg r v).readReg q = if q = r ∧ r ≠ 0#5 then v else s.readReg q := by
  unfold State.writeReg State.readReg
  by_cases hq : q = 0#5
  · subst hq; by_cases hr : 0#5 = r <;> simp_all
  by_cases hr : r = 0#5
  · subst hr; simp [hq]
  simp only [hq, hr, if_false, Vector.getElem_set, ne_eq, not_false_eq_true, and_true]
  have e : (r.toNat - 1 = q.toNat - 1) ↔ (q = r) := by
    constructor
    · intro h
      have h1 : q.toNat ≠ 0 := fun h => hq (BitVec.eq_of_toNat_eq h)
      have h2 : r.toNat ≠ 0 := fun h => hr (BitVec.eq_of_toNat_eq h)
      exact BitVec.eq_of_toNat_eq (by omega)
    · rintro rfl; rfl
  simp [e]

@[simp] theorem readReg_writeReg_same (s : State) (r : Reg) (v : Word) :
    (s.writeReg r v).readReg r = if r = 0#5 then 0#32 else v := by
  rw [readReg_writeReg]
  by_cases h : r = 0#5 <;> simp [h]

theorem readReg_writeReg_other (s : State) (r q : Reg) (v : Word) (h : q ≠ r) :
    (s.writeReg r v).readReg q = s.readReg q := by
  rw [readReg_writeReg]; simp [h]

/-- A CP0 cell after a write to the file (R29). -/
theorem cp0Cell_cp0Put (f : Cp0File) (i c : Reg) (v : Word) :
    cp0Cell (cp0Put f i v) c = if c = i then v else cp0Cell f c := by
  unfold cp0Cell cp0Put
  rw [Vector.getElem_set]
  have e : (i.toNat = c.toNat) ↔ (c = i) :=
    ⟨fun h => BitVec.eq_of_toNat_eq h.symm, fun h => by rw [h]⟩
  simp [e]

@[simp] theorem cp0Cell_cp0Put_same (f : Cp0File) (i : Reg) (v : Word) : cp0Cell (cp0Put f i v) i = v := by
  simp [cp0Cell_cp0Put]

theorem cp0Cell_cp0Put_other (f : Cp0File) (i c : Reg) (v : Word) (h : c ≠ i) :
    cp0Cell (cp0Put f i v) c = cp0Cell f c := by simp [cp0Cell_cp0Put, h]

/-- Two CP0 files with the same cells are the same. -/
theorem cp0File_ext {f g : Cp0File} (h : ∀ c : Reg, cp0Cell f c = cp0Cell g c) : f = g := by
  apply Vector.ext
  intro i hi
  have := h (BitVec.ofNat 5 i)
  simpa [cp0Cell, Nat.mod_eq_of_lt hi] using this

theorem readCp0_writeCp0 (s : State) (i c : Reg) (v : Word) :
    (s.writeCp0 i v).readCp0 c = if c = i then v else s.readCp0 c := cp0Cell_cp0Put _ _ _ _

end Sys2Proof.Machine
end

