-- ==== Sys2Proof/Laws/Ops.lean ====
section
/-! SUPPORT. One lemma per shared operation that says once everything the operation can do; proofs about
instructions cite these instead of unfolding the operation. -/

namespace Sys2Proof.Machine

theorem finishReg_spec (rd : Reg) (v : Word) (s : State) :
    ∃ t, finishReg rd v s = .next t ∧ WritesReg rd v s t := by
  refine ⟨_, rfl, ?_, rfl, fun r h => ?_, ⟨rfl, rfl⟩, fun _ => rfl, fun _ => rfl, rfl, rfl⟩
  · simp
  · simp [readReg_writeReg_other _ _ _ _ h]

theorem finishHiLo_spec (h l : Word) (s : State) :
    ∃ t, finishHiLo h l s = .next t ∧ WritesHiLo h l s t :=
  ⟨_, rfl, rfl, rfl, rfl, fun _ => rfl, fun _ => rfl, fun _ => rfl, rfl, rfl⟩

theorem setPc_spec (target : Word) (s : State) : WritesPc target s (s.setPc target) :=
  ⟨rfl, fun _ => rfl, ⟨rfl, rfl⟩, fun _ => rfl, fun _ => rfl, rfl, rfl⟩

theorem branch_spec (taken : Bool) (offset : Half) (s : State) :
    ∃ t, branch taken offset s = .next t ∧
      WritesPc (if taken then branchTarget s.pc offset else s.pc + 4#32) s t := by
  refine ⟨_, rfl, ?_⟩
  cases taken
  · exact setPc_spec _ s
  · exact setPc_spec _ s

theorem link_spec (rd : Reg) (target : Word) (s : State) :
    Links rd target s ((s.writeReg rd (s.pc + 4#32)).setPc target) := by
  refine ⟨?_, rfl, fun r h => ?_, ⟨rfl, rfl⟩, fun _ => rfl, fun _ => rfl, rfl, rfl⟩
  · simp
  · simp [readReg_writeReg_other _ _ _ _ h]

theorem writeCp0_spec (rd : Reg) (v : Word) (s : State) : WritesCp0 rd v s (s.writeCp0 rd v).advance := by
  refine ⟨?_, rfl, fun c h => ?_, fun _ => rfl, ⟨rfl, rfl⟩, fun _ => rfl, rfl, rfl⟩
  · simp [readCp0_writeCp0]
  · simp [readCp0_writeCp0, h]

/-- The CP0 file after exception entry (R226): `epc` last. -/
theorem raise_cp0 (e : Exc) (s : State) :
    (raise e s).cp0 = cp0Put (cp0OnEntry s.cfg s.cp0 e s.pc) s.cfg.epcIdx (epcValue s.cfg e s.pc) := rfl

theorem raise_readCp0 (e : Exc) (s : State) (c : Reg) :
    (raise e s).readCp0 c =
      if c = s.cfg.epcIdx then epcValue s.cfg e s.pc else cp0Cell (cp0OnEntry s.cfg s.cp0 e s.pc) c := by
  rw [State.readCp0, raise_cp0, cp0Cell_cp0Put]

theorem raise_spec (e : Exc) (s : State) : Enters e (epcValue s.cfg e s.pc) s (raise e s) := by
  refine ⟨?_, rfl, fun c h => ?_, fun _ => rfl, ⟨rfl, rfl⟩, fun _ => rfl, rfl, rfl⟩
  · simp [State.epc, raise_readCp0]
  · simp [raise_readCp0, h]

theorem exceptionReturn_epc (s : State) : (exceptionReturn s).epc = s.epc := by
  simp [State.epc, State.readCp0, cp0OnReturn]

theorem exceptionReturn_spec (s : State) : Returns s (exceptionReturn s) :=
  ⟨rfl, exceptionReturn_epc s, fun _ => rfl, fun _ => rfl, ⟨rfl, rfl⟩, fun _ => rfl, rfl, rfl⟩

/-- Every byte of a span has been written, said of each one. -/
theorem allWritten_iff (s : State) (n : Nat) : ∀ a,
    s.allWritten a n = true ↔ ∀ k < n, Memory.read s.dmem (a + k) ≠ none := by
  induction n with
  | zero => intro a; simp [State.allWritten]
  | succ n ih =>
    intro a
    simp only [State.allWritten, Bool.and_eq_true, ih, Option.isSome_iff_ne_none]
    constructor
    · rintro ⟨h0, h⟩ k hk
      cases k with
      | zero => simpa using h0
      | succ k => have := h k (by omega); rwa [show a + (k + 1) = a + 1 + k by omega]
    · intro h
      refine ⟨by simpa using h 0 (by omega), fun k hk => ?_⟩
      have := h (k + 1) (by omega)
      rwa [show a + 1 + k = a + (k + 1) by omega]

theorem afterRead_draws (s : State) (a n : Nat) :
    (s.afterRead a n).draws =
      if ∃ k < n, Memory.read s.dmem (a + k) = none then s.draws + 1 else s.draws := by
  unfold State.afterRead
  by_cases h : s.allWritten a n = true
  · have h' := (allWritten_iff s n a).1 h
    rw [if_pos h, if_neg]
    rintro ⟨k, hk, e⟩
    exact h' k hk e
  · rw [if_neg h, if_pos]
    by_contra hc
    exact h ((allWritten_iff s n a).2 fun k hk e => hc ⟨k, hk, e⟩)

/-- A load of mapped memory completes (R55). -/
theorem finishLoad_mapped (rt : Reg) (addr : Word) (n : Nat) (v : Word) (s : State)
    (h : s.cfg.mapsData addr = true) : ∃ t, finishLoad rt addr n v s = .next t ∧ Loads rt addr n v s t := by
  refine ⟨_, if_pos h, ?_, ?_, ?_, fun r hr => ?_, ⟨?_, ?_⟩, fun c => ?_, fun a => ?_, ?_⟩
  · simp
  · simp
  · simp [afterRead_draws]
  · simp [readReg_writeReg_other _ _ _ _ hr]
  all_goals simp [SameCfg]

/-- A load outside `DMEM` is the model fault (R59). -/
theorem finishLoad_unmapped (rt : Reg) (addr : Word) (n : Nat) (v : Word) (s : State)
    (h : s.cfg.mapsData addr = false) : finishLoad rt addr n v s = .fault (.unmappedAccess addr) := by
  simp [finishLoad, h]

/-- A store outside `DMEM` is the model fault (R59). -/
theorem finishStore_unmapped (addr : Word) (bytes : List Byte) (s : State) (h : s.cfg.mapsData addr = false) :
    finishStore addr bytes s = .fault (.unmappedAccess addr) := by simp [finishStore, h]

/-- A store to mapped memory completes (R56): the bytes, in their places, and no other. -/
theorem finishStore_mapped (addr : Word) (bytes : List Byte) (n : Nat) (v : Word) (s : State)
    (h : s.cfg.mapsData addr = true) (hn : bytes.length = n)
    (hb : ∀ k < n, bytes[k]? = some (v.extractLsb' (8 * k) 8)) :
    ∃ t, finishStore addr bytes s = .next t ∧ StoresBytes addr n v s t := by
  refine ⟨_, if_pos h, fun k hk => ?_, fun a ha => ?_, rfl, fun _ => rfl, ⟨rfl, rfl⟩, fun _ => rfl, rfl, rfl⟩
  · have h1 : addr.toNat ≤ addr.toNat + k ∧ addr.toNat + k < addr.toNat + bytes.length := by omega
    simp only [State.advance_dmem, State.setDmem_dmem, Memory.read_writeBytes, h1, and_self, if_true]
    rw [show addr.toNat + k - addr.toNat = k by omega, hb k hk]
  · have h1 : ¬ (addr.toNat ≤ a ∧ a < addr.toNat + bytes.length) := by omega
    simp only [State.advance_dmem, State.setDmem_dmem, Memory.read_writeBytes, h1, if_false]

theorem aligned2_iff (a : Word) : aligned2 a = true ↔ a.toNat % 2 = 0 := by
  simp only [aligned2, beq_iff_eq, ← BitVec.toNat_inj, BitVec.extractLsb'_toNat]
  simp

theorem aligned4_iff (a : Word) : aligned4 a = true ↔ a.toNat % 4 = 0 := by
  simp only [aligned4, beq_iff_eq, ← BitVec.toNat_inj, BitVec.extractLsb'_toNat]
  simp

/-- The number of the containing word. -/
theorem containingWord_toNat (a : Word) : (containingWord a).toNat = a.toNat / 4 * 4 := by
  have h1 : (containingWord a).toNat = (a.extractLsb' 2 30).toNat <<< 2 ||| (0#2).toNat :=
    BitVec.toNat_append _ _
  have h2 := a.isLt
  rw [h1, BitVec.extractLsb'_toNat, Nat.shiftRight_eq_div_pow, Nat.shiftLeft_eq]
  simp
  omega

/-- Fetch and decode, in the order of R233. -/
theorem fetchDecode_misaligned (s : State) (h : s.pc.toNat % 4 ≠ 0) :
    fetchDecode s = .error (.misalignedFetch s.pc) := by
  have : ¬ aligned4 s.pc = true := fun e => h ((aligned4_iff _).1 e)
  simp [fetchDecode, this]

theorem fetchDecode_unmapped (s : State) (h : s.pc.toNat % 4 = 0)
    (hm : textBytes s.cfg.imem s.pc.toNat = none) : fetchDecode s = .error (.fetchUnmapped s.pc) := by
  simp [fetchDecode, (aligned4_iff _).2 h, hm]

theorem fetchDecode_word (s : State) (b0 b1 b2 b3 : Byte) (h : s.pc.toNat % 4 = 0)
    (hm : textBytes s.cfg.imem s.pc.toNat = some [b0, b1, b2, b3]) :
    fetchDecode s = match decodeWord (wordOfBytes b0 b1 b2 b3) with
      | .ok i => .ok i
      | .reject _ => .error (.illegalInstruction s.pc (wordOfBytes b0 b1 b2 b3)) := by
  cases hd : decodeWord (wordOfBytes b0 b1 b2 b3) <;>
    simp [fetchDecode, (aligned4_iff _).2 h, hm, decodeBytes, wordOf, hd]

/-! ### What a shared operation did, if it answered a next state -/

theorem finishLoad_next {rt : Reg} {addr : Word} {n : Nat} {v : Word} {s t : State}
    (h : finishLoad rt addr n v s = .next t) :
    s.cfg.mapsData addr = true ∧ t = ((s.afterRead addr.toNat n).writeReg rt v).advance := by
  unfold finishLoad at h
  split at h <;> cases h
  exact ⟨by assumption, rfl⟩

theorem finishStore_next {addr : Word} {bytes : List Byte} {s t : State} (h : finishStore addr bytes s = .next t) :
    s.cfg.mapsData addr = true ∧ t = (s.setDmem (Memory.writeBytes s.dmem addr.toNat bytes)).advance := by
  unfold finishStore at h
  split at h <;> cases h
  exact ⟨by assumption, rfl⟩

theorem ifAligned_next {aligned : Bool} {kind : AccessKind} {addr : Word} {access : Result} {s t : State}
    (h : ifAligned aligned kind addr access s = .next t) :
    (aligned = true ∧ access = .next t) ∨ (aligned = false ∧ t = raise (.addressError kind addr) s) := by
  cases aligned
  · exact .inr ⟨rfl, by cases h; rfl⟩
  · exact .inl ⟨rfl, h⟩

theorem finishOrOverflow_next {rd : Reg} {temp : BitVec 33} {s t : State}
    (h : finishOrOverflow rd temp s = .next t) :
    (overflowed temp = true ∧ t = raise .integerOverflow s) ∨
      (overflowed temp = false ∧ t = (s.writeReg rd (temp.extractLsb' 0 32)).advance) := by
  unfold finishOrOverflow at h
  split at h
  next ho => exact .inl ⟨ho, by cases h; rfl⟩
  next ho => exact .inr ⟨Bool.eq_false_of_not_eq_true ho, by cases h; rfl⟩

/-- The instruction word at an address is there exactly when its four bytes are. -/
theorem textBytes_isSome_iff (imem : Memory) (a : Nat) :
    (textBytes imem a).isSome = true ↔ ∀ k < 4, Memory.read imem (a + k) ≠ none := by
  have four : (∀ k < 4, Memory.read imem (a + k) ≠ none) ↔
      Memory.read imem a ≠ none ∧ Memory.read imem (a + 1) ≠ none ∧ Memory.read imem (a + 2) ≠ none ∧
        Memory.read imem (a + 3) ≠ none := by
    refine ⟨fun h => ⟨h 0 (by omega), h 1 (by omega), h 2 (by omega), h 3 (by omega)⟩, fun ⟨h0, h1, h2, h3⟩ k hk => ?_⟩
    obtain rfl | rfl | rfl | rfl : k = 0 ∨ k = 1 ∨ k = 2 ∨ k = 3 := by omega
    exacts [h0, h1, h2, h3]
  rw [four, textBytes]
  cases Memory.read imem a <;> cases Memory.read imem (a + 1) <;> cases Memory.read imem (a + 2) <;>
    cases Memory.read imem (a + 3) <;> simp

/-- A next state of a step is that of some instruction. -/
theorem step_next {s t : State} (h : step s = .next t) : ∃ i, fetchDecode s = .ok i ∧ exec i s = .next t := by
  unfold step at h
  split at h
  · cases h
  next i e => exact ⟨i, e, h⟩

/-- The bytes of a word, put together again, are the word. -/
theorem wordOfBytes_bytesOfWord (w : Word) :
    wordOfBytes (byteOfWord w 0) (byteOfWord w 1) (byteOfWord w 2) (byteOfWord w 3) = w := by
  unfold wordOfBytes byteOfWord
  apply BitVec.eq_of_toNat_eq
  have hw := w.isLt
  rw [BitVec.toNat_append, BitVec.toNat_append, BitVec.toNat_append]
  simp only [BitVec.extractLsb'_toNat, Nat.shiftRight_eq_div_pow]
  have key : ∀ a b : Nat, b < 256 → a <<< 8 ||| b = a * 256 + b := by
    intro a b h
    rw [← Nat.shiftLeft_add_eq_or_of_lt (by simpa using h), Nat.shiftLeft_eq]
  rw [key, key, key] <;> omega

/-- The text that `putText` places is what the next fetch reads. -/
theorem textBytes_putText (s : State) (w : Word) :
    textBytes (putText s w).cfg.imem s.pc.toNat =
      some [byteOfWord w 0, byteOfWord w 1, byteOfWord w 2, byteOfWord w 3] := by
  simp [textBytes, putText, Memory.read_writeBytes, bytesOfWord]

end Sys2Proof.Machine
end

