-- ==== Sys2Proof/Laws/PerInstr.lean ====
section
/-! SUPPORT. One statement per instruction, as syntax: its encoded word matches a row of the opcode table that
bears its mnemonic, that is, `(w AND mask) = match` (R93), the row's mask covering every fixed zero field
(R95). -/

/-- The word that `encode` gives matches the instruction's own row of the opcode table (R93). -/
def Sys2Proof.Laws.EncodingMatchesRow.Statement (i : Sys2Proof.Instr) : Prop :=
  ∃ r ∈ Sys2Proof.opcodeTable, r.mnemonic = i.mnemonic ∧ r.matchesWord (Sys2Proof.encode i) = true

namespace Sys2Proof.Laws

theorem EncodingMatchesRow.sll (rd rt : Reg) (s : BitVec 5) : EncodingMatchesRow.Statement (.sll rd rt s) := by
  refine ⟨⟨.sll, 0xFFE0003F#32, 0x00000000#32⟩, by decide, rfl, ?_⟩
  rw [OpcodeRow.matchesWord, show 0xFFE0003F#32 = 0x3F#6 ++ 0x1F#5 ++ 0x0#5 ++ 0x0#5 ++ 0x0#5 ++ 0x3F#6 from by decide, encode, encodeR_and]
  simp; decide

theorem EncodingMatchesRow.srl (rd rt : Reg) (s : BitVec 5) : EncodingMatchesRow.Statement (.srl rd rt s) := by
  refine ⟨⟨.srl, 0xFFE0003F#32, 0x00000002#32⟩, by decide, rfl, ?_⟩
  rw [OpcodeRow.matchesWord, show 0xFFE0003F#32 = 0x3F#6 ++ 0x1F#5 ++ 0x0#5 ++ 0x0#5 ++ 0x0#5 ++ 0x3F#6 from by decide, encode, encodeR_and]
  simp; decide

theorem EncodingMatchesRow.sra (rd rt : Reg) (s : BitVec 5) : EncodingMatchesRow.Statement (.sra rd rt s) := by
  refine ⟨⟨.sra, 0xFFE0003F#32, 0x00000003#32⟩, by decide, rfl, ?_⟩
  rw [OpcodeRow.matchesWord, show 0xFFE0003F#32 = 0x3F#6 ++ 0x1F#5 ++ 0x0#5 ++ 0x0#5 ++ 0x0#5 ++ 0x3F#6 from by decide, encode, encodeR_and]
  simp; decide

theorem EncodingMatchesRow.sllv (rd rt rs : Reg) : EncodingMatchesRow.Statement (.sllv rd rt rs) := by
  refine ⟨⟨.sllv, 0xFC0007FF#32, 0x00000004#32⟩, by decide, rfl, ?_⟩
  rw [OpcodeRow.matchesWord, show 0xFC0007FF#32 = 0x3F#6 ++ 0x0#5 ++ 0x0#5 ++ 0x0#5 ++ 0x1F#5 ++ 0x3F#6 from by decide, encode, encodeR_and]
  simp; decide

theorem EncodingMatchesRow.srlv (rd rt rs : Reg) : EncodingMatchesRow.Statement (.srlv rd rt rs) := by
  refine ⟨⟨.srlv, 0xFC0007FF#32, 0x00000006#32⟩, by decide, rfl, ?_⟩
  rw [OpcodeRow.matchesWord, show 0xFC0007FF#32 = 0x3F#6 ++ 0x0#5 ++ 0x0#5 ++ 0x0#5 ++ 0x1F#5 ++ 0x3F#6 from by decide, encode, encodeR_and]
  simp; decide

theorem EncodingMatchesRow.srav (rd rt rs : Reg) : EncodingMatchesRow.Statement (.srav rd rt rs) := by
  refine ⟨⟨.srav, 0xFC0007FF#32, 0x00000007#32⟩, by decide, rfl, ?_⟩
  rw [OpcodeRow.matchesWord, show 0xFC0007FF#32 = 0x3F#6 ++ 0x0#5 ++ 0x0#5 ++ 0x0#5 ++ 0x1F#5 ++ 0x3F#6 from by decide, encode, encodeR_and]
  simp; decide

theorem EncodingMatchesRow.jr (rs : Reg) : EncodingMatchesRow.Statement (.jr rs) := by
  refine ⟨⟨.jr, 0xFC1FFFFF#32, 0x00000008#32⟩, by decide, rfl, ?_⟩
  rw [OpcodeRow.matchesWord, show 0xFC1FFFFF#32 = 0x3F#6 ++ 0x0#5 ++ 0x1F#5 ++ 0x1F#5 ++ 0x1F#5 ++ 0x3F#6 from by decide, encode, encodeR_and]
  simp; decide

theorem EncodingMatchesRow.jalr (rd rs : Reg) : EncodingMatchesRow.Statement (.jalr rd rs) := by
  refine ⟨⟨.jalr, 0xFC1F07FF#32, 0x00000009#32⟩, by decide, rfl, ?_⟩
  rw [OpcodeRow.matchesWord, show 0xFC1F07FF#32 = 0x3F#6 ++ 0x0#5 ++ 0x1F#5 ++ 0x0#5 ++ 0x1F#5 ++ 0x3F#6 from by decide, encode, encodeR_and]
  simp; decide

theorem EncodingMatchesRow.syscall (code : BitVec 20) : EncodingMatchesRow.Statement (.syscall code) := by
  refine ⟨⟨.syscall, 0xFC00003F#32, 0x0000000C#32⟩, by decide, rfl, ?_⟩
  rw [OpcodeRow.matchesWord, show 0xFC00003F#32 = 0x3F#6 ++ 0x0#20 ++ 0x3F#6 from by decide, encode, encodeCode_and]
  simp; decide

theorem EncodingMatchesRow.brk (code : BitVec 20) : EncodingMatchesRow.Statement (.brk code) := by
  refine ⟨⟨.brk, 0xFC00003F#32, 0x0000000D#32⟩, by decide, rfl, ?_⟩
  rw [OpcodeRow.matchesWord, show 0xFC00003F#32 = 0x3F#6 ++ 0x0#20 ++ 0x3F#6 from by decide, encode, encodeCode_and]
  simp; decide

theorem EncodingMatchesRow.mfhi (rd : Reg) : EncodingMatchesRow.Statement (.mfhi rd) := by
  refine ⟨⟨.mfhi, 0xFFFF07FF#32, 0x00000010#32⟩, by decide, rfl, ?_⟩
  rw [OpcodeRow.matchesWord, show 0xFFFF07FF#32 = 0x3F#6 ++ 0x1F#5 ++ 0x1F#5 ++ 0x0#5 ++ 0x1F#5 ++ 0x3F#6 from by decide, encode, encodeR_and]
  simp; decide

theorem EncodingMatchesRow.mthi (rs : Reg) : EncodingMatchesRow.Statement (.mthi rs) := by
  refine ⟨⟨.mthi, 0xFC1FFFFF#32, 0x00000011#32⟩, by decide, rfl, ?_⟩
  rw [OpcodeRow.matchesWord, show 0xFC1FFFFF#32 = 0x3F#6 ++ 0x0#5 ++ 0x1F#5 ++ 0x1F#5 ++ 0x1F#5 ++ 0x3F#6 from by decide, encode, encodeR_and]
  simp; decide

theorem EncodingMatchesRow.mflo (rd : Reg) : EncodingMatchesRow.Statement (.mflo rd) := by
  refine ⟨⟨.mflo, 0xFFFF07FF#32, 0x00000012#32⟩, by decide, rfl, ?_⟩
  rw [OpcodeRow.matchesWord, show 0xFFFF07FF#32 = 0x3F#6 ++ 0x1F#5 ++ 0x1F#5 ++ 0x0#5 ++ 0x1F#5 ++ 0x3F#6 from by decide, encode, encodeR_and]
  simp; decide

theorem EncodingMatchesRow.mtlo (rs : Reg) : EncodingMatchesRow.Statement (.mtlo rs) := by
  refine ⟨⟨.mtlo, 0xFC1FFFFF#32, 0x00000013#32⟩, by decide, rfl, ?_⟩
  rw [OpcodeRow.matchesWord, show 0xFC1FFFFF#32 = 0x3F#6 ++ 0x0#5 ++ 0x1F#5 ++ 0x1F#5 ++ 0x1F#5 ++ 0x3F#6 from by decide, encode, encodeR_and]
  simp; decide

theorem EncodingMatchesRow.mult (rs rt : Reg) : EncodingMatchesRow.Statement (.mult rs rt) := by
  refine ⟨⟨.mult, 0xFC00FFFF#32, 0x00000018#32⟩, by decide, rfl, ?_⟩
  rw [OpcodeRow.matchesWord, show 0xFC00FFFF#32 = 0x3F#6 ++ 0x0#5 ++ 0x0#5 ++ 0x1F#5 ++ 0x1F#5 ++ 0x3F#6 from by decide, encode, encodeR_and]
  simp; decide

theorem EncodingMatchesRow.multu (rs rt : Reg) : EncodingMatchesRow.Statement (.multu rs rt) := by
  refine ⟨⟨.multu, 0xFC00FFFF#32, 0x00000019#32⟩, by decide, rfl, ?_⟩
  rw [OpcodeRow.matchesWord, show 0xFC00FFFF#32 = 0x3F#6 ++ 0x0#5 ++ 0x0#5 ++ 0x1F#5 ++ 0x1F#5 ++ 0x3F#6 from by decide, encode, encodeR_and]
  simp; decide

theorem EncodingMatchesRow.div (rs rt : Reg) : EncodingMatchesRow.Statement (.div rs rt) := by
  refine ⟨⟨.div, 0xFC00FFFF#32, 0x0000001A#32⟩, by decide, rfl, ?_⟩
  rw [OpcodeRow.matchesWord, show 0xFC00FFFF#32 = 0x3F#6 ++ 0x0#5 ++ 0x0#5 ++ 0x1F#5 ++ 0x1F#5 ++ 0x3F#6 from by decide, encode, encodeR_and]
  simp; decide

theorem EncodingMatchesRow.divu (rs rt : Reg) : EncodingMatchesRow.Statement (.divu rs rt) := by
  refine ⟨⟨.divu, 0xFC00FFFF#32, 0x0000001B#32⟩, by decide, rfl, ?_⟩
  rw [OpcodeRow.matchesWord, show 0xFC00FFFF#32 = 0x3F#6 ++ 0x0#5 ++ 0x0#5 ++ 0x1F#5 ++ 0x1F#5 ++ 0x3F#6 from by decide, encode, encodeR_and]
  simp; decide

theorem EncodingMatchesRow.add (rd rs rt : Reg) : EncodingMatchesRow.Statement (.add rd rs rt) := by
  refine ⟨⟨.add, 0xFC0007FF#32, 0x00000020#32⟩, by decide, rfl, ?_⟩
  rw [OpcodeRow.matchesWord, show 0xFC0007FF#32 = 0x3F#6 ++ 0x0#5 ++ 0x0#5 ++ 0x0#5 ++ 0x1F#5 ++ 0x3F#6 from by decide, encode, encodeR_and]
  simp; decide

theorem EncodingMatchesRow.addu (rd rs rt : Reg) : EncodingMatchesRow.Statement (.addu rd rs rt) := by
  refine ⟨⟨.addu, 0xFC0007FF#32, 0x00000021#32⟩, by decide, rfl, ?_⟩
  rw [OpcodeRow.matchesWord, show 0xFC0007FF#32 = 0x3F#6 ++ 0x0#5 ++ 0x0#5 ++ 0x0#5 ++ 0x1F#5 ++ 0x3F#6 from by decide, encode, encodeR_and]
  simp; decide

theorem EncodingMatchesRow.sub (rd rs rt : Reg) : EncodingMatchesRow.Statement (.sub rd rs rt) := by
  refine ⟨⟨.sub, 0xFC0007FF#32, 0x00000022#32⟩, by decide, rfl, ?_⟩
  rw [OpcodeRow.matchesWord, show 0xFC0007FF#32 = 0x3F#6 ++ 0x0#5 ++ 0x0#5 ++ 0x0#5 ++ 0x1F#5 ++ 0x3F#6 from by decide, encode, encodeR_and]
  simp; decide

theorem EncodingMatchesRow.subu (rd rs rt : Reg) : EncodingMatchesRow.Statement (.subu rd rs rt) := by
  refine ⟨⟨.subu, 0xFC0007FF#32, 0x00000023#32⟩, by decide, rfl, ?_⟩
  rw [OpcodeRow.matchesWord, show 0xFC0007FF#32 = 0x3F#6 ++ 0x0#5 ++ 0x0#5 ++ 0x0#5 ++ 0x1F#5 ++ 0x3F#6 from by decide, encode, encodeR_and]
  simp; decide

theorem EncodingMatchesRow.and (rd rs rt : Reg) : EncodingMatchesRow.Statement (.and rd rs rt) := by
  refine ⟨⟨.and, 0xFC0007FF#32, 0x00000024#32⟩, by decide, rfl, ?_⟩
  rw [OpcodeRow.matchesWord, show 0xFC0007FF#32 = 0x3F#6 ++ 0x0#5 ++ 0x0#5 ++ 0x0#5 ++ 0x1F#5 ++ 0x3F#6 from by decide, encode, encodeR_and]
  simp; decide

theorem EncodingMatchesRow.or (rd rs rt : Reg) : EncodingMatchesRow.Statement (.or rd rs rt) := by
  refine ⟨⟨.or, 0xFC0007FF#32, 0x00000025#32⟩, by decide, rfl, ?_⟩
  rw [OpcodeRow.matchesWord, show 0xFC0007FF#32 = 0x3F#6 ++ 0x0#5 ++ 0x0#5 ++ 0x0#5 ++ 0x1F#5 ++ 0x3F#6 from by decide, encode, encodeR_and]
  simp; decide

theorem EncodingMatchesRow.xor (rd rs rt : Reg) : EncodingMatchesRow.Statement (.xor rd rs rt) := by
  refine ⟨⟨.xor, 0xFC0007FF#32, 0x00000026#32⟩, by decide, rfl, ?_⟩
  rw [OpcodeRow.matchesWord, show 0xFC0007FF#32 = 0x3F#6 ++ 0x0#5 ++ 0x0#5 ++ 0x0#5 ++ 0x1F#5 ++ 0x3F#6 from by decide, encode, encodeR_and]
  simp; decide

theorem EncodingMatchesRow.nor (rd rs rt : Reg) : EncodingMatchesRow.Statement (.nor rd rs rt) := by
  refine ⟨⟨.nor, 0xFC0007FF#32, 0x00000027#32⟩, by decide, rfl, ?_⟩
  rw [OpcodeRow.matchesWord, show 0xFC0007FF#32 = 0x3F#6 ++ 0x0#5 ++ 0x0#5 ++ 0x0#5 ++ 0x1F#5 ++ 0x3F#6 from by decide, encode, encodeR_and]
  simp; decide

theorem EncodingMatchesRow.slt (rd rs rt : Reg) : EncodingMatchesRow.Statement (.slt rd rs rt) := by
  refine ⟨⟨.slt, 0xFC0007FF#32, 0x0000002A#32⟩, by decide, rfl, ?_⟩
  rw [OpcodeRow.matchesWord, show 0xFC0007FF#32 = 0x3F#6 ++ 0x0#5 ++ 0x0#5 ++ 0x0#5 ++ 0x1F#5 ++ 0x3F#6 from by decide, encode, encodeR_and]
  simp; decide

theorem EncodingMatchesRow.sltu (rd rs rt : Reg) : EncodingMatchesRow.Statement (.sltu rd rs rt) := by
  refine ⟨⟨.sltu, 0xFC0007FF#32, 0x0000002B#32⟩, by decide, rfl, ?_⟩
  rw [OpcodeRow.matchesWord, show 0xFC0007FF#32 = 0x3F#6 ++ 0x0#5 ++ 0x0#5 ++ 0x0#5 ++ 0x1F#5 ++ 0x3F#6 from by decide, encode, encodeR_and]
  simp; decide

theorem EncodingMatchesRow.bltz (rs : Reg) (offset : Half) : EncodingMatchesRow.Statement (.bltz rs offset) := by
  refine ⟨⟨.bltz, 0xFC1F0000#32, 0x04000000#32⟩, by decide, rfl, ?_⟩
  rw [OpcodeRow.matchesWord, show 0xFC1F0000#32 = 0x3F#6 ++ 0x0#5 ++ 0x1F#5 ++ 0x0#16 from by decide, encode, encodeI_and]
  simp; decide

theorem EncodingMatchesRow.bgez (rs : Reg) (offset : Half) : EncodingMatchesRow.Statement (.bgez rs offset) := by
  refine ⟨⟨.bgez, 0xFC1F0000#32, 0x04010000#32⟩, by decide, rfl, ?_⟩
  rw [OpcodeRow.matchesWord, show 0xFC1F0000#32 = 0x3F#6 ++ 0x0#5 ++ 0x1F#5 ++ 0x0#16 from by decide, encode, encodeI_and]
  simp; decide

theorem EncodingMatchesRow.j (index : BitVec 26) : EncodingMatchesRow.Statement (.j index) := by
  refine ⟨⟨.j, 0xFC000000#32, 0x08000000#32⟩, by decide, rfl, ?_⟩
  rw [OpcodeRow.matchesWord, show 0xFC000000#32 = 0x3F#6 ++ 0x0#26 from by decide, encode, encodeJ_and]
  simp; decide

theorem EncodingMatchesRow.jal (index : BitVec 26) : EncodingMatchesRow.Statement (.jal index) := by
  refine ⟨⟨.jal, 0xFC000000#32, 0x0C000000#32⟩, by decide, rfl, ?_⟩
  rw [OpcodeRow.matchesWord, show 0xFC000000#32 = 0x3F#6 ++ 0x0#26 from by decide, encode, encodeJ_and]
  simp; decide

theorem EncodingMatchesRow.beq (rs rt : Reg) (offset : Half) : EncodingMatchesRow.Statement (.beq rs rt offset) := by
  refine ⟨⟨.beq, 0xFC000000#32, 0x10000000#32⟩, by decide, rfl, ?_⟩
  rw [OpcodeRow.matchesWord, show 0xFC000000#32 = 0x3F#6 ++ 0x0#5 ++ 0x0#5 ++ 0x0#16 from by decide, encode, encodeI_and]
  simp; decide

theorem EncodingMatchesRow.bne (rs rt : Reg) (offset : Half) : EncodingMatchesRow.Statement (.bne rs rt offset) := by
  refine ⟨⟨.bne, 0xFC000000#32, 0x14000000#32⟩, by decide, rfl, ?_⟩
  rw [OpcodeRow.matchesWord, show 0xFC000000#32 = 0x3F#6 ++ 0x0#5 ++ 0x0#5 ++ 0x0#16 from by decide, encode, encodeI_and]
  simp; decide

theorem EncodingMatchesRow.blez (rs : Reg) (offset : Half) : EncodingMatchesRow.Statement (.blez rs offset) := by
  refine ⟨⟨.blez, 0xFC1F0000#32, 0x18000000#32⟩, by decide, rfl, ?_⟩
  rw [OpcodeRow.matchesWord, show 0xFC1F0000#32 = 0x3F#6 ++ 0x0#5 ++ 0x1F#5 ++ 0x0#16 from by decide, encode, encodeI_and]
  simp; decide

theorem EncodingMatchesRow.bgtz (rs : Reg) (offset : Half) : EncodingMatchesRow.Statement (.bgtz rs offset) := by
  refine ⟨⟨.bgtz, 0xFC1F0000#32, 0x1C000000#32⟩, by decide, rfl, ?_⟩
  rw [OpcodeRow.matchesWord, show 0xFC1F0000#32 = 0x3F#6 ++ 0x0#5 ++ 0x1F#5 ++ 0x0#16 from by decide, encode, encodeI_and]
  simp; decide

theorem EncodingMatchesRow.addi (rt rs : Reg) (imm : Half) : EncodingMatchesRow.Statement (.addi rt rs imm) := by
  refine ⟨⟨.addi, 0xFC000000#32, 0x20000000#32⟩, by decide, rfl, ?_⟩
  rw [OpcodeRow.matchesWord, show 0xFC000000#32 = 0x3F#6 ++ 0x0#5 ++ 0x0#5 ++ 0x0#16 from by decide, encode, encodeI_and]
  simp; decide

theorem EncodingMatchesRow.addiu (rt rs : Reg) (imm : Half) : EncodingMatchesRow.Statement (.addiu rt rs imm) := by
  refine ⟨⟨.addiu, 0xFC000000#32, 0x24000000#32⟩, by decide, rfl, ?_⟩
  rw [OpcodeRow.matchesWord, show 0xFC000000#32 = 0x3F#6 ++ 0x0#5 ++ 0x0#5 ++ 0x0#16 from by decide, encode, encodeI_and]
  simp; decide

theorem EncodingMatchesRow.slti (rt rs : Reg) (imm : Half) : EncodingMatchesRow.Statement (.slti rt rs imm) := by
  refine ⟨⟨.slti, 0xFC000000#32, 0x28000000#32⟩, by decide, rfl, ?_⟩
  rw [OpcodeRow.matchesWord, show 0xFC000000#32 = 0x3F#6 ++ 0x0#5 ++ 0x0#5 ++ 0x0#16 from by decide, encode, encodeI_and]
  simp; decide

theorem EncodingMatchesRow.sltiu (rt rs : Reg) (imm : Half) : EncodingMatchesRow.Statement (.sltiu rt rs imm) := by
  refine ⟨⟨.sltiu, 0xFC000000#32, 0x2C000000#32⟩, by decide, rfl, ?_⟩
  rw [OpcodeRow.matchesWord, show 0xFC000000#32 = 0x3F#6 ++ 0x0#5 ++ 0x0#5 ++ 0x0#16 from by decide, encode, encodeI_and]
  simp; decide

theorem EncodingMatchesRow.andi (rt rs : Reg) (imm : Half) : EncodingMatchesRow.Statement (.andi rt rs imm) := by
  refine ⟨⟨.andi, 0xFC000000#32, 0x30000000#32⟩, by decide, rfl, ?_⟩
  rw [OpcodeRow.matchesWord, show 0xFC000000#32 = 0x3F#6 ++ 0x0#5 ++ 0x0#5 ++ 0x0#16 from by decide, encode, encodeI_and]
  simp; decide

theorem EncodingMatchesRow.ori (rt rs : Reg) (imm : Half) : EncodingMatchesRow.Statement (.ori rt rs imm) := by
  refine ⟨⟨.ori, 0xFC000000#32, 0x34000000#32⟩, by decide, rfl, ?_⟩
  rw [OpcodeRow.matchesWord, show 0xFC000000#32 = 0x3F#6 ++ 0x0#5 ++ 0x0#5 ++ 0x0#16 from by decide, encode, encodeI_and]
  simp; decide

theorem EncodingMatchesRow.xori (rt rs : Reg) (imm : Half) : EncodingMatchesRow.Statement (.xori rt rs imm) := by
  refine ⟨⟨.xori, 0xFC000000#32, 0x38000000#32⟩, by decide, rfl, ?_⟩
  rw [OpcodeRow.matchesWord, show 0xFC000000#32 = 0x3F#6 ++ 0x0#5 ++ 0x0#5 ++ 0x0#16 from by decide, encode, encodeI_and]
  simp; decide

theorem EncodingMatchesRow.lui (rt : Reg) (imm : Half) : EncodingMatchesRow.Statement (.lui rt imm) := by
  refine ⟨⟨.lui, 0xFFE00000#32, 0x3C000000#32⟩, by decide, rfl, ?_⟩
  rw [OpcodeRow.matchesWord, show 0xFFE00000#32 = 0x3F#6 ++ 0x1F#5 ++ 0x0#5 ++ 0x0#16 from by decide, encode, encodeI_and]
  simp; decide

theorem EncodingMatchesRow.mfc0 (rt rd : Reg) : EncodingMatchesRow.Statement (.mfc0 rt rd) := by
  refine ⟨⟨.mfc0, 0xFFE007FF#32, 0x40000000#32⟩, by decide, rfl, ?_⟩
  rw [OpcodeRow.matchesWord, show 0xFFE007FF#32 = 0x3F#6 ++ 0x1F#5 ++ 0x0#5 ++ 0x0#5 ++ 0x7FF#11 from by decide, encode, encodeCop0_and]
  simp; decide

theorem EncodingMatchesRow.mtc0 (rt rd : Reg) : EncodingMatchesRow.Statement (.mtc0 rt rd) := by
  refine ⟨⟨.mtc0, 0xFFE007FF#32, 0x40800000#32⟩, by decide, rfl, ?_⟩
  rw [OpcodeRow.matchesWord, show 0xFFE007FF#32 = 0x3F#6 ++ 0x1F#5 ++ 0x0#5 ++ 0x0#5 ++ 0x7FF#11 from by decide, encode, encodeCop0_and]
  simp; decide

theorem EncodingMatchesRow.eret : EncodingMatchesRow.Statement (.eret) := by
  exact ⟨⟨.eret, 0xFFFFFFFF#32, 0x42000018#32⟩, by decide, rfl, by decide⟩

theorem EncodingMatchesRow.lb (rt : Reg) (offset : Half) (base : Reg) : EncodingMatchesRow.Statement (.lb rt offset base) := by
  refine ⟨⟨.lb, 0xFC000000#32, 0x80000000#32⟩, by decide, rfl, ?_⟩
  rw [OpcodeRow.matchesWord, show 0xFC000000#32 = 0x3F#6 ++ 0x0#5 ++ 0x0#5 ++ 0x0#16 from by decide, encode, encodeI_and]
  simp; decide

theorem EncodingMatchesRow.lh (rt : Reg) (offset : Half) (base : Reg) : EncodingMatchesRow.Statement (.lh rt offset base) := by
  refine ⟨⟨.lh, 0xFC000000#32, 0x84000000#32⟩, by decide, rfl, ?_⟩
  rw [OpcodeRow.matchesWord, show 0xFC000000#32 = 0x3F#6 ++ 0x0#5 ++ 0x0#5 ++ 0x0#16 from by decide, encode, encodeI_and]
  simp; decide

theorem EncodingMatchesRow.lw (rt : Reg) (offset : Half) (base : Reg) : EncodingMatchesRow.Statement (.lw rt offset base) := by
  refine ⟨⟨.lw, 0xFC000000#32, 0x8C000000#32⟩, by decide, rfl, ?_⟩
  rw [OpcodeRow.matchesWord, show 0xFC000000#32 = 0x3F#6 ++ 0x0#5 ++ 0x0#5 ++ 0x0#16 from by decide, encode, encodeI_and]
  simp; decide

theorem EncodingMatchesRow.lbu (rt : Reg) (offset : Half) (base : Reg) : EncodingMatchesRow.Statement (.lbu rt offset base) := by
  refine ⟨⟨.lbu, 0xFC000000#32, 0x90000000#32⟩, by decide, rfl, ?_⟩
  rw [OpcodeRow.matchesWord, show 0xFC000000#32 = 0x3F#6 ++ 0x0#5 ++ 0x0#5 ++ 0x0#16 from by decide, encode, encodeI_and]
  simp; decide

theorem EncodingMatchesRow.lhu (rt : Reg) (offset : Half) (base : Reg) : EncodingMatchesRow.Statement (.lhu rt offset base) := by
  refine ⟨⟨.lhu, 0xFC000000#32, 0x94000000#32⟩, by decide, rfl, ?_⟩
  rw [OpcodeRow.matchesWord, show 0xFC000000#32 = 0x3F#6 ++ 0x0#5 ++ 0x0#5 ++ 0x0#16 from by decide, encode, encodeI_and]
  simp; decide

theorem EncodingMatchesRow.sb (rt : Reg) (offset : Half) (base : Reg) : EncodingMatchesRow.Statement (.sb rt offset base) := by
  refine ⟨⟨.sb, 0xFC000000#32, 0xA0000000#32⟩, by decide, rfl, ?_⟩
  rw [OpcodeRow.matchesWord, show 0xFC000000#32 = 0x3F#6 ++ 0x0#5 ++ 0x0#5 ++ 0x0#16 from by decide, encode, encodeI_and]
  simp; decide

theorem EncodingMatchesRow.sh (rt : Reg) (offset : Half) (base : Reg) : EncodingMatchesRow.Statement (.sh rt offset base) := by
  refine ⟨⟨.sh, 0xFC000000#32, 0xA4000000#32⟩, by decide, rfl, ?_⟩
  rw [OpcodeRow.matchesWord, show 0xFC000000#32 = 0x3F#6 ++ 0x0#5 ++ 0x0#5 ++ 0x0#16 from by decide, encode, encodeI_and]
  simp; decide

theorem EncodingMatchesRow.sw (rt : Reg) (offset : Half) (base : Reg) : EncodingMatchesRow.Statement (.sw rt offset base) := by
  refine ⟨⟨.sw, 0xFC000000#32, 0xAC000000#32⟩, by decide, rfl, ?_⟩
  rw [OpcodeRow.matchesWord, show 0xFC000000#32 = 0x3F#6 ++ 0x0#5 ++ 0x0#5 ++ 0x0#16 from by decide, encode, encodeI_and]
  simp; decide

end Sys2Proof.Laws
end

