-- ==== Sys2Proof/Tests/Slice0.lean ====
section
/-! SUPPORT. Tests, one step each, and the witnesses of the obligations' hypotheses. Every expected value comes from
spec/: the bit fields of the decode tests from the Encoding lines of the rules, the words and results of the step
tests from the vector of 95_test_vectors.md that the test's name and docstring give (configuration T, `pc =
0x3010`), everything else from the rule named. -/

namespace Sys2Proof.Tests

open Sys2Proof Sys2Proof.Machine

/-! ### Small states -/

/-- One thing to put into a state. -/
inductive Edit where
  | reg (r : Reg) (v : Word)
  | cp0 (c : Reg) (v : Word)
  | mem (a : Nat) (v : Word)
  | hi (v : Word)
  | lo (v : Word)
  | pc (v : Word)

/-- A state with these things put into it. -/
def edit : State → List Edit → State
  | s, [] => s
  | s, .reg r v :: es => edit (s.writeReg r v) es
  | s, .cp0 c v :: es => edit (s.writeCp0 c v) es
  | s, .mem a v :: es => edit (s.setDmem (Memory.writeBytes s.dmem a (bytesOfWord v))) es
  | s, .hi v :: es => edit (s.setHi v) es
  | s, .lo v :: es => edit (s.setLo v) es
  | s, .pc v :: es => edit (s.setPc v) es

/-- The state before a vector: configuration T, `pc = 0x3010`. -/
def before (es : List Edit) : State := edit (State.reset.setPc 0x3010#32) es

/-- The same with an instruction word at `pc`. -/
def start (es : List Edit) (w : Nat) : State := (before es).withFetchWord 32 w

/-- What `f` sees in the next state, if there is one. -/
def after {α : Type} (o : Result) (f : State → α) : Option α :=
  match o with
  | .next t => some (f t)
  | _ => none

/-- The fault, if the outcome is one. -/
def faultOf : Result → Option Fault
  | .fault f => some f
  | _ => none

/-- A value seen after an outcome is that of its next state. -/
theorem exists_of_after {α : Type} {o : Result} {f : State → α} {v : α} (h : after o f = some v) :
    ∃ t, o = .next t ∧ f t = v := by
  cases o with
  | next t => exact ⟨t, rfl, by simpa [after] using h⟩
  | fault f => simp [after] at h
  | refused r => simp [after] at h

/-- The outcome is the fault that is seen. -/
theorem eq_of_faultOf {o : Result} {f : Fault} (h : faultOf o = some f) : o = .fault f := by
  cases o with
  | next t => simp [faultOf] at h
  | fault g => simpa [faultOf] using h
  | refused r => simp [faultOf] at h

/-! ### Decoding: every instruction, its word put together field by field from its Encoding line -/

theorem test_decode_sll : decodeWord (0b000000#6 ++ 0b00000#5 ++ 18#5 ++ 17#5 ++ 21#5 ++ 0b000000#6) = .ok (.sll 17#5 18#5 21#5) := by decide
theorem test_decode_srl : decodeWord (0b000000#6 ++ 0b00000#5 ++ 18#5 ++ 17#5 ++ 21#5 ++ 0b000010#6) = .ok (.srl 17#5 18#5 21#5) := by decide
theorem test_decode_sra : decodeWord (0b000000#6 ++ 0b00000#5 ++ 18#5 ++ 17#5 ++ 21#5 ++ 0b000011#6) = .ok (.sra 17#5 18#5 21#5) := by decide
theorem test_decode_sllv : decodeWord (0b000000#6 ++ 19#5 ++ 18#5 ++ 17#5 ++ 0b00000#5 ++ 0b000100#6) = .ok (.sllv 17#5 18#5 19#5) := by decide
theorem test_decode_srlv : decodeWord (0b000000#6 ++ 19#5 ++ 18#5 ++ 17#5 ++ 0b00000#5 ++ 0b000110#6) = .ok (.srlv 17#5 18#5 19#5) := by decide
theorem test_decode_srav : decodeWord (0b000000#6 ++ 19#5 ++ 18#5 ++ 17#5 ++ 0b00000#5 ++ 0b000111#6) = .ok (.srav 17#5 18#5 19#5) := by decide
theorem test_decode_jr : decodeWord (0b000000#6 ++ 17#5 ++ 0b0000000000#10 ++ 0b00000#5 ++ 0b001000#6) = .ok (.jr 17#5) := by decide
theorem test_decode_jalr : decodeWord (0b000000#6 ++ 18#5 ++ 0b00000#5 ++ 17#5 ++ 0b00000#5 ++ 0b001001#6) = .ok (.jalr 17#5 18#5) := by decide
theorem test_decode_syscall : decodeWord (0b000000#6 ++ 0x98765#20 ++ 0b001100#6) = .ok (.syscall 0x98765#20) := by decide
theorem test_decode_break : decodeWord (0b000000#6 ++ 0x98765#20 ++ 0b001101#6) = .ok (.brk 0x98765#20) := by decide
theorem test_decode_mfhi : decodeWord (0b000000#6 ++ 0b0000000000#10 ++ 17#5 ++ 0b00000#5 ++ 0b010000#6) = .ok (.mfhi 17#5) := by decide
theorem test_decode_mflo : decodeWord (0b000000#6 ++ 0b0000000000#10 ++ 17#5 ++ 0b00000#5 ++ 0b010010#6) = .ok (.mflo 17#5) := by decide
theorem test_decode_mthi : decodeWord (0b000000#6 ++ 18#5 ++ 0b000000000000000#15 ++ 0b010001#6) = .ok (.mthi 18#5) := by decide
theorem test_decode_mtlo : decodeWord (0b000000#6 ++ 18#5 ++ 0b000000000000000#15 ++ 0b010011#6) = .ok (.mtlo 18#5) := by decide
theorem test_decode_mult : decodeWord (0b000000#6 ++ 18#5 ++ 19#5 ++ 0b0000000000#10 ++ 0b011000#6) = .ok (.mult 18#5 19#5) := by decide
theorem test_decode_multu : decodeWord (0b000000#6 ++ 18#5 ++ 19#5 ++ 0b0000000000#10 ++ 0b011001#6) = .ok (.multu 18#5 19#5) := by decide
theorem test_decode_div : decodeWord (0b000000#6 ++ 18#5 ++ 19#5 ++ 0b0000000000#10 ++ 0b011010#6) = .ok (.div 18#5 19#5) := by decide
theorem test_decode_divu : decodeWord (0b000000#6 ++ 18#5 ++ 19#5 ++ 0b0000000000#10 ++ 0b011011#6) = .ok (.divu 18#5 19#5) := by decide
theorem test_decode_add : decodeWord (0b000000#6 ++ 18#5 ++ 19#5 ++ 17#5 ++ 0b00000#5 ++ 0b100000#6) = .ok (.add 17#5 18#5 19#5) := by decide
theorem test_decode_addu : decodeWord (0b000000#6 ++ 18#5 ++ 19#5 ++ 17#5 ++ 0b00000#5 ++ 0b100001#6) = .ok (.addu 17#5 18#5 19#5) := by decide
theorem test_decode_sub : decodeWord (0b000000#6 ++ 18#5 ++ 19#5 ++ 17#5 ++ 0b00000#5 ++ 0b100010#6) = .ok (.sub 17#5 18#5 19#5) := by decide
theorem test_decode_subu : decodeWord (0b000000#6 ++ 18#5 ++ 19#5 ++ 17#5 ++ 0b00000#5 ++ 0b100011#6) = .ok (.subu 17#5 18#5 19#5) := by decide
theorem test_decode_and : decodeWord (0b000000#6 ++ 18#5 ++ 19#5 ++ 17#5 ++ 0b00000#5 ++ 0b100100#6) = .ok (.and 17#5 18#5 19#5) := by decide
theorem test_decode_or : decodeWord (0b000000#6 ++ 18#5 ++ 19#5 ++ 17#5 ++ 0b00000#5 ++ 0b100101#6) = .ok (.or 17#5 18#5 19#5) := by decide
theorem test_decode_xor : decodeWord (0b000000#6 ++ 18#5 ++ 19#5 ++ 17#5 ++ 0b00000#5 ++ 0b100110#6) = .ok (.xor 17#5 18#5 19#5) := by decide
theorem test_decode_nor : decodeWord (0b000000#6 ++ 18#5 ++ 19#5 ++ 17#5 ++ 0b00000#5 ++ 0b100111#6) = .ok (.nor 17#5 18#5 19#5) := by decide
theorem test_decode_slt : decodeWord (0b000000#6 ++ 18#5 ++ 19#5 ++ 17#5 ++ 0b00000#5 ++ 0b101010#6) = .ok (.slt 17#5 18#5 19#5) := by decide
theorem test_decode_sltu : decodeWord (0b000000#6 ++ 18#5 ++ 19#5 ++ 17#5 ++ 0b00000#5 ++ 0b101011#6) = .ok (.sltu 17#5 18#5 19#5) := by decide
theorem test_decode_bltz : decodeWord (0b000001#6 ++ 17#5 ++ 0b00000#5 ++ 0xFFFE#16) = .ok (.bltz 17#5 0xFFFE#16) := by decide
theorem test_decode_bgez : decodeWord (0b000001#6 ++ 17#5 ++ 0b00001#5 ++ 0xFFFE#16) = .ok (.bgez 17#5 0xFFFE#16) := by decide
theorem test_decode_blez : decodeWord (0b000110#6 ++ 17#5 ++ 0b00000#5 ++ 0xFFFE#16) = .ok (.blez 17#5 0xFFFE#16) := by decide
theorem test_decode_bgtz : decodeWord (0b000111#6 ++ 17#5 ++ 0b00000#5 ++ 0xFFFE#16) = .ok (.bgtz 17#5 0xFFFE#16) := by decide
theorem test_decode_j : decodeWord (0b000010#6 ++ 0x2ABCDEF#26) = .ok (.j 0x2ABCDEF#26) := by decide
theorem test_decode_jal : decodeWord (0b000011#6 ++ 0x2ABCDEF#26) = .ok (.jal 0x2ABCDEF#26) := by decide
theorem test_decode_beq : decodeWord (0b000100#6 ++ 17#5 ++ 18#5 ++ 0xFFFE#16) = .ok (.beq 17#5 18#5 0xFFFE#16) := by decide
theorem test_decode_bne : decodeWord (0b000101#6 ++ 17#5 ++ 18#5 ++ 0xFFFE#16) = .ok (.bne 17#5 18#5 0xFFFE#16) := by decide
theorem test_decode_addi : decodeWord (0b001000#6 ++ 18#5 ++ 17#5 ++ 0x55AA#16) = .ok (.addi 17#5 18#5 0x55AA#16) := by decide
theorem test_decode_addiu : decodeWord (0b001001#6 ++ 18#5 ++ 17#5 ++ 0x55AA#16) = .ok (.addiu 17#5 18#5 0x55AA#16) := by decide
theorem test_decode_slti : decodeWord (0b001010#6 ++ 18#5 ++ 17#5 ++ 0x55AA#16) = .ok (.slti 17#5 18#5 0x55AA#16) := by decide
theorem test_decode_sltiu : decodeWord (0b001011#6 ++ 18#5 ++ 17#5 ++ 0x55AA#16) = .ok (.sltiu 17#5 18#5 0x55AA#16) := by decide
theorem test_decode_andi : decodeWord (0b001100#6 ++ 18#5 ++ 17#5 ++ 0x55AA#16) = .ok (.andi 17#5 18#5 0x55AA#16) := by decide
theorem test_decode_ori : decodeWord (0b001101#6 ++ 18#5 ++ 17#5 ++ 0x55AA#16) = .ok (.ori 17#5 18#5 0x55AA#16) := by decide
theorem test_decode_xori : decodeWord (0b001110#6 ++ 18#5 ++ 17#5 ++ 0x55AA#16) = .ok (.xori 17#5 18#5 0x55AA#16) := by decide
theorem test_decode_lui : decodeWord (0b001111#6 ++ 0b00000#5 ++ 17#5 ++ 0x55AA#16) = .ok (.lui 17#5 0x55AA#16) := by decide
theorem test_decode_mfc0 : decodeWord (0b010000#6 ++ 0b00000#5 ++ 17#5 ++ 14#5 ++ 0b00000000000#11) = .ok (.mfc0 17#5 14#5) := by decide
theorem test_decode_mtc0 : decodeWord (0b010000#6 ++ 0b00100#5 ++ 17#5 ++ 14#5 ++ 0b00000000000#11) = .ok (.mtc0 17#5 14#5) := by decide
theorem test_decode_eret : decodeWord (0b010000#6 ++ 0b1#1 ++ 0b0000000000000000000#19 ++ 0b011000#6) = .ok .eret := by decide
theorem test_decode_lb : decodeWord (0b100000#6 ++ 16#5 ++ 3#5 ++ 0x0018#16) = .ok (.lb 3#5 0x0018#16 16#5) := by decide
theorem test_decode_lh : decodeWord (0b100001#6 ++ 16#5 ++ 3#5 ++ 0x0018#16) = .ok (.lh 3#5 0x0018#16 16#5) := by decide
theorem test_decode_lw : decodeWord (0b100011#6 ++ 16#5 ++ 3#5 ++ 0x0018#16) = .ok (.lw 3#5 0x0018#16 16#5) := by decide
theorem test_decode_lbu : decodeWord (0b100100#6 ++ 16#5 ++ 3#5 ++ 0x0018#16) = .ok (.lbu 3#5 0x0018#16 16#5) := by decide
theorem test_decode_lhu : decodeWord (0b100101#6 ++ 16#5 ++ 3#5 ++ 0x0018#16) = .ok (.lhu 3#5 0x0018#16 16#5) := by decide
theorem test_decode_sb : decodeWord (0b101000#6 ++ 16#5 ++ 3#5 ++ 0x0018#16) = .ok (.sb 3#5 0x0018#16 16#5) := by decide
theorem test_decode_sh : decodeWord (0b101001#6 ++ 16#5 ++ 3#5 ++ 0x0018#16) = .ok (.sh 3#5 0x0018#16 16#5) := by decide
theorem test_decode_sw : decodeWord (0b101011#6 ++ 16#5 ++ 3#5 ++ 0x0018#16) = .ok (.sw 3#5 0x0018#16 16#5) := by decide

/-! ### Well-formedness: each check refuses an ill-formed term (30_encoding.md R94, R95, R96; V237 to V255) -/

theorem test_V237_refused : wordWellFormed 0x00208810#32 = false ∧ decodeWord 0x00208810#32 = .reject (.fixedFieldNotZero .mfhi) := by decide
theorem test_V238_refused : wordWellFormed 0x00008850#32 = false ∧ decodeWord 0x00008850#32 = .reject (.fixedFieldNotZero .mfhi) := by decide
theorem test_V239_refused : wordWellFormed 0x02400051#32 = false ∧ decodeWord 0x02400051#32 = .reject (.fixedFieldNotZero .mthi) := by decide
theorem test_V240_refused : wordWellFormed 0x1A21FFFE#32 = false ∧ decodeWord 0x1A21FFFE#32 = .reject (.fixedFieldNotZero .blez) := by decide
theorem test_V241_refused : wordWellFormed 0x3C200001#32 = false ∧ decodeWord 0x3C200001#32 = .reject (.fixedFieldNotZero .lui) := by decide
theorem test_V242_refused : wordWellFormed 0x04020000#32 = false ∧ decodeWord 0x04020000#32 = .reject (.unknownRegimm 2#5) := by decide
theorem test_V243_refused : wordWellFormed 0x40110801#32 = false ∧ decodeWord 0x40110801#32 = .reject (.fixedFieldNotZero .mfc0) := by decide
theorem test_V244_refused : wordWellFormed 0x40917001#32 = false ∧ decodeWord 0x40917001#32 = .reject (.fixedFieldNotZero .mtc0) := by decide
theorem test_V245_refused : wordWellFormed 0x41000000#32 = false ∧ decodeWord 0x41000000#32 = .reject (.unknownCop0 8#5) := by decide
theorem test_V246_refused : wordWellFormed 0x42000019#32 = false ∧ decodeWord 0x42000019#32 = .reject (.unknownCop0 16#5) := by decide
theorem test_V247_refused : wordWellFormed 0x42000058#32 = false ∧ decodeWord 0x42000058#32 = .reject (.unknownCop0 16#5) := by decide
theorem test_V248_refused : wordWellFormed 0x0000000E#32 = false ∧ decodeWord 0x0000000E#32 = .reject (.unknownFunct 0x0E#6) := by decide
theorem test_V249_refused : wordWellFormed 0x0000000F#32 = false ∧ decodeWord 0x0000000F#32 = .reject (.unknownFunct 0x0F#6) := by decide
theorem test_V250_refused : wordWellFormed 0x0000002C#32 = false ∧ decodeWord 0x0000002C#32 = .reject (.unknownFunct 0x2C#6) := by decide
theorem test_V251_refused : wordWellFormed 0x70000000#32 = false ∧ decodeWord 0x70000000#32 = .reject (.unknownOpcode 0x1C#6) := by decide
theorem test_V252_refused : wordWellFormed 0x88000000#32 = false ∧ decodeWord 0x88000000#32 = .reject (.unknownOpcode 0x22#6) := by decide
theorem test_V253_refused : wordWellFormed 0x9C000000#32 = false ∧ decodeWord 0x9C000000#32 = .reject (.unknownOpcode 0x27#6) := by decide
theorem test_V254_refused : wordWellFormed 0xBC000000#32 = false ∧ decodeWord 0xBC000000#32 = .reject (.unknownOpcode 0x2F#6) := by decide
theorem test_V255_refused : wordWellFormed 0xFFFFFFFF#32 = false ∧ decodeWord 0xFFFFFFFF#32 = .reject (.unknownOpcode 0x3F#6) := by decide
theorem test_V235_V236_accepted :
    decodeWord 0x00000000#32 = .ok (.sll 0#5 0#5 0#5) ∧ decodeWord 0x00000040#32 = .ok (.sll 0#5 0#5 1#5) := by decide
theorem test_decode_truncated : decodeBytes [0x20#8, 0x88#8, 0x53#8] = .reject (.truncated 3) := by decide

/-- Lines of assembly that break one check each (R98, R99): a register number, a CP0 register written by name, a CP0
number, a shift amount, a 16-bit value too large, one too small, an offset, a base, a target, a code, a negative
code, an operand too many, an operand missing, an operand of another kind. -/
def illFormedLines : List AsmLine :=
  [ ⟨.add, [.reg (.numbered 32), .reg (.named 1#5), .reg (.named 2#5)]⟩,
    ⟨.mfc0, [.reg (.named 1#5), .reg (.named 14#5)]⟩,
    ⟨.mtc0, [.reg (.named 1#5), .reg (.numbered 32)]⟩,
    ⟨.sll, [.reg (.named 1#5), .reg (.named 2#5), .imm 32]⟩,
    ⟨.addi, [.reg (.named 1#5), .reg (.named 2#5), .imm 65536]⟩,
    ⟨.lui, [.reg (.named 1#5), .imm (-32769)]⟩,
    ⟨.lw, [.reg (.named 1#5), .mem 65536 (.named 2#5)]⟩,
    ⟨.sw, [.reg (.named 1#5), .mem 0 (.numbered 40)]⟩,
    ⟨.j, [.imm 67108864]⟩,
    ⟨.brk, [.imm 1048576]⟩,
    ⟨.syscall, [.imm (-1)]⟩,
    ⟨.eret, [.imm 0]⟩,
    ⟨.mult, [.reg (.named 1#5)]⟩,
    ⟨.jalr, [.reg (.named 1#5), .imm 5]⟩,
    ⟨.jr, []⟩,
    ⟨.bgtz, [.reg (.numbered 99), .imm 0]⟩ ]

theorem test_illFormedLines_refused :
    illFormedLines.all (fun l => !l.wellFormed && (assemble l).isNone) = true := by decide

/-- The same operands at the last value each check allows. -/
theorem test_boundaryLines_accepted :
    ([ ⟨.add, [.reg (.numbered 31), .reg (.named 1#5), .reg (.named 2#5)]⟩,
       ⟨.mtc0, [.reg (.named 1#5), .reg (.numbered 31)]⟩,
       ⟨.sll, [.reg (.named 1#5), .reg (.named 2#5), .imm 31]⟩,
       ⟨.addi, [.reg (.named 1#5), .reg (.named 2#5), .imm 65535]⟩,
       ⟨.lui, [.reg (.named 1#5), .imm (-32768)]⟩,
       ⟨.j, [.imm 67108863]⟩,
       ⟨.brk, [.imm 1048575]⟩ ] : List AsmLine).all (fun l => l.wellFormed && (assemble l).isSome) = true := by decide

/-! ### Assembly text: lines that the source prints, with the words that 95_test_vectors.md Part 1 derives -/

theorem test_assemble_addi : (assembleText "addi $s1, $s2, -1").map encode = some 0x2251FFFF#32 := by decide
theorem test_assemble_lh : (assembleText "lh $v1, 3($s0)").map encode = some 0x86030003#32 := by decide
theorem test_assemble_mfc0 : (assembleText "mfc0 $s1, $1").map encode = some 0x40110800#32 := by decide
theorem test_assemble_sltui : (assembleText "sltui $s1, $s2, 0xAABB").map encode = some 0x2E51AABB#32 := by decide
theorem test_assemble_sra : (assembleText "sra $s1, $s2, 5").map encode = some 0x00128943#32 := by decide

/-! ### One step of each instruction -/

/-- V2: `lb $v1, 3($s0)`. -/
theorem test_V2_lb :
    after (step (start [.mem 0x100 0x81C2F384#32, .mem 0x104 0x00007F12#32, .reg 16#5 0x00000100#32] 0x82030003)) (fun t => (t.readReg 3#5, t.pc)) = some (0xFFFFFF81#32, 0x00003014#32) := by decide
/-- V3: `lb $v1, 5($s0)`. -/
theorem test_V3_lb :
    after (step (start [.mem 0x100 0x81C2F384#32, .mem 0x104 0x00007F12#32, .reg 16#5 0x00000100#32] 0x82030005)) (fun t => (t.readReg 3#5, t.pc)) = some (0x0000007F#32, 0x00003014#32) := by decide
/-- V5: `lbu $v1, 1($s0)`. -/
theorem test_V5_lbu :
    after (step (start [.mem 0x100 0x81C2F384#32, .mem 0x104 0x00007F12#32, .reg 16#5 0x00000100#32] 0x92030001)) (fun t => (t.readReg 3#5, t.pc)) = some (0x000000F3#32, 0x00003014#32) := by decide
/-- V6: `lbu $v1, 3($s0)`. -/
theorem test_V6_lbu :
    after (step (start [.mem 0x100 0x81C2F384#32, .mem 0x104 0x00007F12#32, .reg 16#5 0x00000100#32] 0x92030003)) (fun t => (t.readReg 3#5, t.pc)) = some (0x00000081#32, 0x00003014#32) := by decide
/-- V8: `lh $v1, 2($s0)`. -/
theorem test_V8_lh :
    after (step (start [.mem 0x100 0x81C2F384#32, .mem 0x104 0x00007F12#32, .reg 16#5 0x00000100#32] 0x86030002)) (fun t => (t.readReg 3#5, t.pc)) = some (0xFFFF81C2#32, 0x00003014#32) := by decide
/-- V18: `lh $v1, 3($s0)`. -/
theorem test_V18_lh :
    after (step (start [.mem 0x100 0x81C2F384#32, .mem 0x104 0x00007F12#32, .reg 16#5 0x00000100#32] 0x86030003)) (fun t => (t.readCp0 13#5, t.readCp0 14#5)) = some (0x00000010#32, 0x00003010#32) := by decide
/-- V11: `lhu $v1, 2($s0)`. -/
theorem test_V11_lhu :
    after (step (start [.mem 0x100 0x81C2F384#32, .mem 0x104 0x00007F12#32, .reg 16#5 0x00000100#32] 0x96030002)) (fun t => (t.readReg 3#5, t.pc)) = some (0x000081C2#32, 0x00003014#32) := by decide
/-- V19: `lhu $v1, 3($s0)`. -/
theorem test_V19_lhu :
    after (step (start [.mem 0x100 0x81C2F384#32, .mem 0x104 0x00007F12#32, .reg 16#5 0x00000100#32] 0x96030003)) (fun t => (t.readCp0 13#5, t.readCp0 14#5)) = some (0x00000010#32, 0x00003010#32) := by decide
/-- V14: `lw $v1, 0x108($s0)`. -/
theorem test_V14_lw :
    after (step (start [.mem 0x100 0x81C2F384#32, .mem 0x104 0x00007F12#32, .reg 16#5 0xFFFFFFF8#32] 0x8E030108)) (fun t => (t.readReg 3#5, t.pc)) = some (0x81C2F384#32, 0x00003014#32) := by decide
/-- V20: `lw $v1, 2($s0)`. -/
theorem test_V20_lw :
    after (step (start [.mem 0x100 0x81C2F384#32, .mem 0x104 0x00007F12#32, .reg 16#5 0x00000100#32] 0x8E030002)) (fun t => (t.readCp0 13#5, t.readCp0 14#5)) = some (0x00000010#32, 0x00003010#32) := by decide
/-- V27: `sb $v1, 1($s0)`. -/
theorem test_V27_sb :
    after (step (start [.mem 0x200 0x11223344#32, .reg 3#5 0xDEADBEAA#32, .reg 16#5 0x00000200#32] 0xA2030001)) (fun t => (t.readData32 0x00000200#32, t.pc)) = some (0x1122AA44#32, 0x00003014#32) := by decide
/-- V29: `sb $v1, 3($s0)`. -/
theorem test_V29_sb :
    after (step (start [.mem 0x200 0x11223344#32, .reg 3#5 0xDEADBEAA#32, .reg 16#5 0x00000200#32] 0xA2030003)) (fun t => (t.readData32 0x00000200#32, t.pc)) = some (0xAA223344#32, 0x00003014#32) := by decide
/-- V31: `sh $v1, 2($s0)`. -/
theorem test_V31_sh :
    after (step (start [.mem 0x200 0x11223344#32, .reg 3#5 0xDEADBEAA#32, .reg 16#5 0x00000200#32] 0xA6030002)) (fun t => (t.readData32 0x00000200#32, t.pc)) = some (0xBEAA3344#32, 0x00003014#32) := by decide
/-- V36: `sh $v1, 1($s0)`. -/
theorem test_V36_sh :
    after (step (start [.mem 0x200 0x11223344#32, .reg 3#5 0xDEADBEAA#32, .reg 16#5 0x00000200#32] 0xA6030001)) (fun t => (t.readCp0 13#5, t.readCp0 14#5)) = some (0x00000014#32, 0x00003010#32) := by decide
/-- V33: `sw $v1, -4($s0)`. -/
theorem test_V33_sw :
    after (step (start [.mem 0x200 0x11223344#32, .reg 3#5 0xDEADBEAA#32, .reg 16#5 0x00000204#32] 0xAE03FFFC)) (fun t => (t.readData32 0x00000200#32, t.pc)) = some (0xDEADBEAA#32, 0x00003014#32) := by decide
/-- V39: `sw $v1, 2($s0)`. -/
theorem test_V39_sw :
    after (step (start [.mem 0x200 0x11223344#32, .reg 3#5 0xDEADBEAA#32, .reg 16#5 0x00000200#32] 0xAE030002)) (fun t => (t.readCp0 13#5, t.readCp0 14#5)) = some (0x00000014#32, 0x00003010#32) := by decide
/-- V45: `add $s1, $s2, $s3`. -/
theorem test_V45_add :
    after (step (start [.reg 18#5 0x7FFFFFFF#32, .reg 19#5 0x80000000#32] 0x02538820)) (fun t => (t.readReg 17#5, t.pc)) = some (0xFFFFFFFF#32, 0x00003014#32) := by decide
/-- V46: `add $s1, $s2, $s3`. -/
theorem test_V46_add :
    after (step (start [.reg 18#5 0x7FFFFFFF#32, .reg 19#5 0x00000001#32] 0x02538820)) (fun t => (t.readCp0 13#5, t.readCp0 14#5)) = some (0x00000030#32, 0x00003010#32) := by decide
/-- V52: `addu $s2, $s2, $s2`. -/
theorem test_V52_addu :
    after (step (start [.reg 18#5 0x40000000#32] 0x02529021)) (fun t => (t.readReg 18#5, t.pc)) = some (0x80000000#32, 0x00003014#32) := by decide
/-- V53: `addu $s1, $s2, $s3`. -/
theorem test_V53_addu :
    after (step (start [.reg 18#5 0x7FFFFFFF#32, .reg 19#5 0x00000001#32] 0x02538821)) (fun t => (t.readReg 17#5, t.pc)) = some (0x80000000#32, 0x00003014#32) := by decide
/-- V58: `sub $s1, $s2, $s3`. -/
theorem test_V58_sub :
    after (step (start [.reg 18#5 0x00000000#32, .reg 19#5 0x80000000#32] 0x02538822)) (fun t => (t.readCp0 13#5, t.readCp0 14#5)) = some (0x00000030#32, 0x00003010#32) := by decide
/-- V60: `sub $s1, $s2, $s3`. -/
theorem test_V60_sub :
    after (step (start [.reg 18#5 0xFFFFFFFF#32, .reg 19#5 0x80000000#32] 0x02538822)) (fun t => (t.readReg 17#5, t.pc)) = some (0x7FFFFFFF#32, 0x00003014#32) := by decide
/-- V61: `subu $s1, $s2, $s3`. -/
theorem test_V61_subu :
    after (step (start [.reg 18#5 0x00000000#32, .reg 19#5 0x00000001#32] 0x02538823)) (fun t => (t.readReg 17#5, t.pc)) = some (0xFFFFFFFF#32, 0x00003014#32) := by decide
/-- V62: `subu $s1, $s2, $s3`. -/
theorem test_V62_subu :
    after (step (start [.reg 18#5 0x80000000#32, .reg 19#5 0x00000001#32] 0x02538823)) (fun t => (t.readReg 17#5, t.pc)) = some (0x7FFFFFFF#32, 0x00003014#32) := by decide
/-- V64: `mult $s2, $s3`. -/
theorem test_V64_mult :
    after (step (start [.reg 18#5 0xFFFFFFFE#32, .reg 19#5 0x00000003#32] 0x02530018)) (fun t => (t.hi, t.lo)) = some (0xFFFFFFFF#32, 0xFFFFFFFA#32) := by decide
/-- V65: `mult $s2, $s3`. -/
theorem test_V65_mult :
    after (step (start [.reg 18#5 0x80000000#32, .reg 19#5 0x80000000#32] 0x02530018)) (fun t => (t.hi, t.lo)) = some (0x40000000#32, 0x00000000#32) := by decide
/-- V69: `multu $s2, $s3`. -/
theorem test_V69_multu :
    after (step (start [.reg 18#5 0xFFFFFFFF#32, .reg 19#5 0xFFFFFFFF#32] 0x02530019)) (fun t => (t.hi, t.lo)) = some (0xFFFFFFFE#32, 0x00000001#32) := by decide
/-- V70: `multu $s2, $s3`. -/
theorem test_V70_multu :
    after (step (start [.reg 18#5 0xFFFFFFFE#32, .reg 19#5 0x00000003#32] 0x02530019)) (fun t => (t.hi, t.lo)) = some (0x00000002#32, 0xFFFFFFFA#32) := by decide
/-- V73: `div $s2, $s3`. -/
theorem test_V73_div :
    after (step (start [.reg 18#5 0xFFFFFFF9#32, .reg 19#5 0x00000002#32] 0x0253001A)) (fun t => (t.hi, t.lo)) = some (0xFFFFFFFF#32, 0xFFFFFFFD#32) := by decide
/-- V74: `div $s2, $s3`. -/
theorem test_V74_div :
    after (step (start [.reg 18#5 0x00000007#32, .reg 19#5 0xFFFFFFFE#32] 0x0253001A)) (fun t => (t.hi, t.lo)) = some (0x00000001#32, 0xFFFFFFFD#32) := by decide
/-- V81: `divu $s2, $s3`. -/
theorem test_V81_divu :
    after (step (start [.reg 18#5 0xFFFFFFF9#32, .reg 19#5 0x00000002#32] 0x0253001B)) (fun t => (t.hi, t.lo)) = some (0x00000001#32, 0x7FFFFFFC#32) := by decide
/-- V83: `divu $s2, $s3`. -/
theorem test_V83_divu :
    after (step (start [.reg 18#5 0x80000000#32, .reg 19#5 0xFFFFFFFF#32] 0x0253001B)) (fun t => (t.hi, t.lo)) = some (0x80000000#32, 0x00000000#32) := by decide
/-- V86: `slt $s1, $s2, $s3`. -/
theorem test_V86_slt :
    after (step (start [.reg 18#5 0x00000001#32, .reg 19#5 0xFFFFFFFF#32] 0x0253882A)) (fun t => (t.readReg 17#5, t.pc)) = some (0x00000000#32, 0x00003014#32) := by decide
/-- V87: `slt $s1, $s2, $s3`. -/
theorem test_V87_slt :
    after (step (start [.reg 18#5 0x80000000#32, .reg 19#5 0x7FFFFFFF#32] 0x0253882A)) (fun t => (t.readReg 17#5, t.pc)) = some (0x00000001#32, 0x00003014#32) := by decide
/-- V90: `sltu $s1, $s2, $s3`. -/
theorem test_V90_sltu :
    after (step (start [.reg 18#5 0x00000001#32, .reg 19#5 0xFFFFFFFF#32] 0x0253882B)) (fun t => (t.readReg 17#5, t.pc)) = some (0x00000001#32, 0x00003014#32) := by decide
/-- V91: `sltu $s1, $s2, $s3`. -/
theorem test_V91_sltu :
    after (step (start [.reg 18#5 0x80000000#32, .reg 19#5 0x7FFFFFFF#32] 0x0253882B)) (fun t => (t.readReg 17#5, t.pc)) = some (0x00000000#32, 0x00003014#32) := by decide
/-- V94: `sll $s1, $s2, 1`. -/
theorem test_V94_sll :
    after (step (start [.reg 18#5 0x80000001#32] 0x00128840)) (fun t => (t.readReg 17#5, t.pc)) = some (0x00000002#32, 0x00003014#32) := by decide
/-- V95: `sll $s1, $s2, 31`. -/
theorem test_V95_sll :
    after (step (start [.reg 18#5 0x80000001#32] 0x00128FC0)) (fun t => (t.readReg 17#5, t.pc)) = some (0x80000000#32, 0x00003014#32) := by decide
/-- V97: `srl $s1, $s2, 1`. -/
theorem test_V97_srl :
    after (step (start [.reg 18#5 0x80000001#32] 0x00128842)) (fun t => (t.readReg 17#5, t.pc)) = some (0x40000000#32, 0x00003014#32) := by decide
/-- V98: `srl $s1, $s2, 31`. -/
theorem test_V98_srl :
    after (step (start [.reg 18#5 0x80000001#32] 0x00128FC2)) (fun t => (t.readReg 17#5, t.pc)) = some (0x00000001#32, 0x00003014#32) := by decide
/-- V101: `sra $s1, $s2, 5`. -/
theorem test_V101_sra :
    after (step (start [.reg 18#5 0x80000001#32] 0x00128943)) (fun t => (t.readReg 17#5, t.pc)) = some (0xFC000000#32, 0x00003014#32) := by decide
/-- V103: `sra $s1, $s2, 4`. -/
theorem test_V103_sra :
    after (step (start [.reg 18#5 0x7FFFFFF0#32] 0x00128903)) (fun t => (t.readReg 17#5, t.pc)) = some (0x07FFFFFF#32, 0x00003014#32) := by decide
/-- V105: `sllv $s1, $s2, $s3`. -/
theorem test_V105_sllv :
    after (step (start [.reg 18#5 0x80000010#32, .reg 19#5 0x00000004#32] 0x02728804)) (fun t => (t.readReg 17#5, t.pc)) = some (0x00000100#32, 0x00003014#32) := by decide
/-- V107: `sllv $s1, $s2, $s3`. -/
theorem test_V107_sllv :
    after (step (start [.reg 18#5 0x80000010#32, .reg 19#5 0x00000021#32] 0x02728804)) (fun t => (t.readReg 17#5, t.pc)) = some (0x00000020#32, 0x00003014#32) := by decide
/-- V108: `srlv $s1, $s2, $s3`. -/
theorem test_V108_srlv :
    after (step (start [.reg 18#5 0x80000010#32, .reg 19#5 0x00000004#32] 0x02728806)) (fun t => (t.readReg 17#5, t.pc)) = some (0x08000001#32, 0x00003014#32) := by decide
/-- V109: `srlv $s1, $s2, $s3`. -/
theorem test_V109_srlv :
    after (step (start [.reg 18#5 0x80000010#32, .reg 19#5 0xFFFFFFFF#32] 0x02728806)) (fun t => (t.readReg 17#5, t.pc)) = some (0x00000001#32, 0x00003014#32) := by decide
/-- V110: `srav $s1, $s2, $s3`. -/
theorem test_V110_srav :
    after (step (start [.reg 18#5 0x80000010#32, .reg 19#5 0x00000004#32] 0x02728807)) (fun t => (t.readReg 17#5, t.pc)) = some (0xF8000001#32, 0x00003014#32) := by decide
/-- V112: `srav $s1, $s2, $s3`. -/
theorem test_V112_srav :
    after (step (start [.reg 18#5 0x80000010#32, .reg 19#5 0x00000020#32] 0x02728807)) (fun t => (t.readReg 17#5, t.pc)) = some (0x80000010#32, 0x00003014#32) := by decide
/-- V113: `and $s1, $s2, $s3`. -/
theorem test_V113_and :
    after (step (start [.reg 18#5 0xFF00FF00#32, .reg 19#5 0x0FF00FF0#32] 0x02538824)) (fun t => (t.readReg 17#5, t.pc)) = some (0x0F000F00#32, 0x00003014#32) := by decide
/-- V114: `or $s1, $s2, $s3`. -/
theorem test_V114_or :
    after (step (start [.reg 18#5 0xFF00FF00#32, .reg 19#5 0x0FF00FF0#32] 0x02538825)) (fun t => (t.readReg 17#5, t.pc)) = some (0xFFF0FFF0#32, 0x00003014#32) := by decide
/-- V115: `xor $s1, $s2, $s3`. -/
theorem test_V115_xor :
    after (step (start [.reg 18#5 0xFF00FF00#32, .reg 19#5 0x0FF00FF0#32] 0x02538826)) (fun t => (t.readReg 17#5, t.pc)) = some (0xF0F0F0F0#32, 0x00003014#32) := by decide
/-- V116: `nor $s1, $s2, $s3`. -/
theorem test_V116_nor :
    after (step (start [.reg 18#5 0xFF00FF00#32, .reg 19#5 0x0FF00FF0#32] 0x02538827)) (fun t => (t.readReg 17#5, t.pc)) = some (0x000F000F#32, 0x00003014#32) := by decide
/-- V117: `nor $s1, $s2, $0`. -/
theorem test_V117_nor :
    after (step (start [.reg 18#5 0xFF00FF00#32] 0x02408827)) (fun t => (t.readReg 17#5, t.pc)) = some (0x00FF00FF#32, 0x00003014#32) := by decide
/-- V120: `addi $s1, $s2, -32768`. -/
theorem test_V120_addi :
    after (step (start [.reg 18#5 0x80008000#32] 0x22518000)) (fun t => (t.readReg 17#5, t.pc)) = some (0x80000000#32, 0x00003014#32) := by decide
/-- V124: `addi $s1, $s2, -32768`. -/
theorem test_V124_addi :
    after (step (start [.reg 18#5 0x80007FFF#32] 0x22518000)) (fun t => (t.readCp0 13#5, t.readCp0 14#5)) = some (0x00000030#32, 0x00003010#32) := by decide
/-- V127: `addiu $s1, $s2, -1`. -/
theorem test_V127_addiu :
    after (step (start [.reg 18#5 0x00000000#32] 0x2651FFFF)) (fun t => (t.readReg 17#5, t.pc)) = some (0xFFFFFFFF#32, 0x00003014#32) := by decide
/-- V129: `addiu $s1, $s2, -32768`. -/
theorem test_V129_addiu :
    after (step (start [.reg 18#5 0x80000000#32] 0x26518000)) (fun t => (t.readReg 17#5, t.pc)) = some (0x7FFF8000#32, 0x00003014#32) := by decide
/-- V130: `andi $s1, $s2, 0xFFFF`. -/
theorem test_V130_andi :
    after (step (start [.reg 18#5 0x12345678#32] 0x3251FFFF)) (fun t => (t.readReg 17#5, t.pc)) = some (0x00005678#32, 0x00003014#32) := by decide
/-- V131: `andi $s1, $s2, 0x8000`. -/
theorem test_V131_andi :
    after (step (start [.reg 18#5 0xFFFFFFFF#32] 0x32518000)) (fun t => (t.readReg 17#5, t.pc)) = some (0x00008000#32, 0x00003014#32) := by decide
/-- V132: `ori $s1, $s2, 0x55AA`. -/
theorem test_V132_ori :
    after (step (start [.reg 18#5 0x12340000#32] 0x365155AA)) (fun t => (t.readReg 17#5, t.pc)) = some (0x123455AA#32, 0x00003014#32) := by decide
/-- V133: `ori $s1, $s2, 0x8000`. -/
theorem test_V133_ori :
    after (step (start [.reg 18#5 0x00000000#32] 0x36518000)) (fun t => (t.readReg 17#5, t.pc)) = some (0x00008000#32, 0x00003014#32) := by decide
/-- V134: `xori $s1, $s2, 0xFFFF`. -/
theorem test_V134_xori :
    after (step (start [.reg 18#5 0x12345678#32] 0x3A51FFFF)) (fun t => (t.readReg 17#5, t.pc)) = some (0x1234A987#32, 0x00003014#32) := by decide
/-- V135: `xori $s1, $s2, 0x8000`. -/
theorem test_V135_xori :
    after (step (start [.reg 18#5 0xFFFF8000#32] 0x3A518000)) (fun t => (t.readReg 17#5, t.pc)) = some (0xFFFF0000#32, 0x00003014#32) := by decide
/-- V137: `lui $s1, 0x55AA`. -/
theorem test_V137_lui :
    after (step (start [] 0x3C1155AA)) (fun t => (t.readReg 17#5, t.pc)) = some (0x55AA0000#32, 0x00003014#32) := by decide
/-- V138: `lui $s1, 0xFFFF`. -/
theorem test_V138_lui :
    after (step (start [] 0x3C11FFFF)) (fun t => (t.readReg 17#5, t.pc)) = some (0xFFFF0000#32, 0x00003014#32) := by decide
/-- V144: `slti $s1, $s2, -1`. -/
theorem test_V144_slti :
    after (step (start [.reg 18#5 0xFFFFFFFE#32] 0x2A51FFFF)) (fun t => (t.readReg 17#5, t.pc)) = some (0x00000001#32, 0x00003014#32) := by decide
/-- V147: `slti $s1, $s2, 0x55AA`. -/
theorem test_V147_slti :
    after (step (start [.reg 18#5 0x000055A9#32] 0x2A5155AA)) (fun t => (t.readReg 17#5, t.pc)) = some (0x00000001#32, 0x00003014#32) := by decide
/-- V153: `sltiu $s1, $s2, 0xAABB`. -/
theorem test_V153_sltiu :
    after (step (start [.reg 18#5 0xFFFFAABB#32] 0x2E51AABB)) (fun t => (t.readReg 17#5, t.pc)) = some (0x00000000#32, 0x00003014#32) := by decide
/-- V154: `sltiu $s1, $s2, 0xAABB`. -/
theorem test_V154_sltiu :
    after (step (start [.reg 18#5 0x0000AABB#32] 0x2E51AABB)) (fun t => (t.readReg 17#5, t.pc)) = some (0x00000001#32, 0x00003014#32) := by decide
/-- V158: `beq $s1, $s2, -2`. -/
theorem test_V158_beq :
    after (step (start [.reg 17#5 0x00000005#32, .reg 18#5 0x00000005#32] 0x1232FFFE)) (fun t => t.pc) = some 0x0000300C#32 := by decide
/-- V159: `beq $s1, $s2, -2`. -/
theorem test_V159_beq :
    after (step (start [.reg 17#5 0x00000005#32, .reg 18#5 0x00000006#32] 0x1232FFFE)) (fun t => t.pc) = some 0x00003014#32 := by decide
/-- V166: `bne $s1, $s2, 8`. -/
theorem test_V166_bne :
    after (step (start [.reg 17#5 0x00000005#32, .reg 18#5 0x00000006#32] 0x16320008)) (fun t => t.pc) = some 0x00003034#32 := by decide
/-- V167: `bne $s1, $s2, 8`. -/
theorem test_V167_bne :
    after (step (start [.reg 17#5 0x00000005#32, .reg 18#5 0x00000005#32] 0x16320008)) (fun t => t.pc) = some 0x00003014#32 := by decide
/-- V169: `blez $s1, -2`. -/
theorem test_V169_blez :
    after (step (start [.reg 17#5 0x00000000#32] 0x1A20FFFE)) (fun t => t.pc) = some 0x0000300C#32 := by decide
/-- V170: `blez $s1, -2`. -/
theorem test_V170_blez :
    after (step (start [.reg 17#5 0x00000001#32] 0x1A20FFFE)) (fun t => t.pc) = some 0x00003014#32 := by decide
/-- V174: `bgtz $s1, -2`. -/
theorem test_V174_bgtz :
    after (step (start [.reg 17#5 0x00000000#32] 0x1E20FFFE)) (fun t => t.pc) = some 0x00003014#32 := by decide
/-- V175: `bgtz $s1, -2`. -/
theorem test_V175_bgtz :
    after (step (start [.reg 17#5 0x00000001#32] 0x1E20FFFE)) (fun t => t.pc) = some 0x0000300C#32 := by decide
/-- V179: `bltz $s1, -2`. -/
theorem test_V179_bltz :
    after (step (start [.reg 17#5 0x00000000#32] 0x0620FFFE)) (fun t => t.pc) = some 0x00003014#32 := by decide
/-- V181: `bltz $s1, -2`. -/
theorem test_V181_bltz :
    after (step (start [.reg 17#5 0xFFFFFFFF#32] 0x0620FFFE)) (fun t => t.pc) = some 0x0000300C#32 := by decide
/-- V184: `bgez $s1, -2`. -/
theorem test_V184_bgez :
    after (step (start [.reg 17#5 0x00000000#32] 0x0621FFFE)) (fun t => t.pc) = some 0x0000300C#32 := by decide
/-- V187: `bgez $s1, -2`. -/
theorem test_V187_bgez :
    after (step (start [.reg 17#5 0x80000000#32] 0x0621FFFE)) (fun t => t.pc) = some 0x00003014#32 := by decide
/-- V191: `j 0x3FFFFFF`. -/
theorem test_V191_j :
    after (step (start [] 0x0BFFFFFF)) (fun t => t.pc) = some 0x0FFFFFFC#32 := by decide
/-- V192: `j 0`. -/
theorem test_V192_j :
    after (step (start [.pc 0x1FFFFFFC#32] 0x08000000)) (fun t => t.pc) = some 0x20000000#32 := by decide
/-- V194: `jal 0xC40`. -/
theorem test_V194_jal :
    after (step (start [] 0x0C000C40)) (fun t => (t.readReg 31#5, t.pc)) = some (0x00003014#32, 0x00003100#32) := by decide
/-- V196: `jal 0`. -/
theorem test_V196_jal :
    after (step (start [.pc 0x0FFFFFFC#32] 0x0C000000)) (fun t => (t.readReg 31#5, t.pc)) = some (0x10000000#32, 0x10000000#32) := by decide
/-- V198: `jalr $s1, $s1`. -/
theorem test_V198_jalr :
    after (step (start [.reg 17#5 0x00003100#32] 0x02208809)) (fun t => (t.readReg 17#5, t.pc)) = some (0x00003014#32, 0x00003100#32) := by decide
/-- V201: `jalr $31, $s1`. -/
theorem test_V201_jalr :
    after (step (start [.reg 17#5 0x00003102#32] 0x0220F809)) (fun t => (t.readReg 31#5, t.pc)) = some (0x00003014#32, 0x00003102#32) := by decide
/-- V203: `jr $s1`. -/
theorem test_V203_jr :
    after (step (start [.reg 17#5 0x00003010#32] 0x02200008)) (fun t => t.pc) = some 0x00003010#32 := by decide
/-- V205: `jr $31`. -/
theorem test_V205_jr :
    after (step (start [.reg 31#5 0x00003011#32] 0x03E00008)) (fun t => t.pc) = some 0x00003011#32 := by decide
/-- V206: `mfhi $s1`. -/
theorem test_V206_mfhi :
    after (step (start [.hi 0x12345678#32, .lo 0x9ABCDEF0#32] 0x00008810)) (fun t => (t.readReg 17#5, t.pc)) = some (0x12345678#32, 0x00003014#32) := by decide
/-- V208: `mfhi $0`. -/
theorem test_V208_mfhi :
    after (step (start [.hi 0x12345678#32, .lo 0x9ABCDEF0#32] 0x00000010)) (fun t => t.pc) = some 0x00003014#32 := by decide
/-- V207: `mflo $s1`. -/
theorem test_V207_mflo :
    after (step (start [.hi 0x12345678#32, .lo 0x9ABCDEF0#32] 0x00008812)) (fun t => (t.readReg 17#5, t.pc)) = some (0x9ABCDEF0#32, 0x00003014#32) := by decide
/-- V209: `mthi $s2`. -/
theorem test_V209_mthi :
    after (step (start [.reg 18#5 0xCAFEBABE#32, .hi 0x00000001#32, .lo 0x00000002#32] 0x02400011)) (fun t => (t.hi, t.pc)) = some (0xCAFEBABE#32, 0x00003014#32) := by decide
/-- V211: `mthi $0`. -/
theorem test_V211_mthi :
    after (step (start [.hi 0x00000001#32, .lo 0x00000002#32] 0x00000011)) (fun t => (t.hi, t.pc)) = some (0x00000000#32, 0x00003014#32) := by decide
/-- V210: `mtlo $s2`. -/
theorem test_V210_mtlo :
    after (step (start [.reg 18#5 0xCAFEBABE#32, .hi 0x00000001#32, .lo 0x00000002#32] 0x02400013)) (fun t => (t.lo, t.pc)) = some (0xCAFEBABE#32, 0x00003014#32) := by decide
/-- V215: `mfc0 $s1, $1`. -/
theorem test_V215_mfc0 :
    after (step (start [.cp0 1#5 0xA5A5A5A5#32] 0x40110800)) (fun t => (t.readReg 17#5, t.pc)) = some (0xA5A5A5A5#32, 0x00003014#32) := by decide
/-- V216: `mfc0 $s1, $14`. -/
theorem test_V216_mfc0 :
    after (step (start [.cp0 14#5 0x00003018#32] 0x40117000)) (fun t => (t.readReg 17#5, t.pc)) = some (0x00003018#32, 0x00003014#32) := by decide
/-- V220: `mtc0 $s1, $12`. -/
theorem test_V220_mtc0 :
    after (step (start [.reg 17#5 0xFFFFFFFF#32] 0x40916000)) (fun t => (t.readCp0 12#5, t.pc)) = some (0xFFFFFFFF#32, 0x00003014#32) := by decide
/-- V221: `mtc0 $0, $13`. -/
theorem test_V221_mtc0 :
    after (step (start [.cp0 13#5 0x00000024#32] 0x40806800)) (fun t => (t.readCp0 13#5, t.pc)) = some (0x00000000#32, 0x00003014#32) := by decide
/-- V223: `eret`. -/
theorem test_V223_eret :
    after (step (start [.cp0 14#5 0x00003018#32, .cp0 12#5 0x00000002#32] 0x42000018)) (fun t => (t.readCp0 12#5, t.pc)) = some (0x00000000#32, 0x00003018#32) := by decide
/-- V224: `eret`. -/
theorem test_V224_eret :
    after (step (start [.cp0 14#5 0x00003018#32, .cp0 12#5 0x0000FF03#32] 0x42000018)) (fun t => (t.readCp0 12#5, t.pc)) = some (0x0000FF01#32, 0x00003018#32) := by decide
/-- V229: `break 0x12345`. -/
theorem test_V229_break :
    after (step (start [] 0x0048D14D)) (fun t => (t.readCp0 13#5, t.readCp0 14#5)) = some (0x00000024#32, 0x00003014#32) := by decide
/-- V232: `break`. -/
theorem test_V232_break :
    after (step (start [.cp0 12#5 0x00000002#32, .cp0 13#5 0x80000020#32, .cp0 14#5 0x00003333#32] 0x0000000D)) (fun t => (t.readCp0 13#5, t.readCp0 14#5)) = some (0x00000024#32, 0x00003014#32) := by decide
/-- V230: `syscall`. -/
theorem test_V230_syscall :
    after (step (start [] 0x0000000C)) (fun t => (t.readCp0 13#5, t.readCp0 14#5)) = some (0x00000020#32, 0x00003014#32) := by decide
/-- V231: `syscall 0xFFFFF`. -/
theorem test_V231_syscall :
    after (step (start [] 0x03FFFFCC)) (fun t => (t.readCp0 13#5, t.readCp0 14#5)) = some (0x00000020#32, 0x00003014#32) := by decide

/-! ### Free values: what the rules fix is as they say, and the value itself is the uninterpreted constant -/

/-- V79: DIV by zero completes; HI and LO are `DivSpecial` (R152). -/
theorem test_V79_div_by_zero :
    after (exec (.div 18#5 19#5) (before [.reg 18#5 5#32])) (fun t => (t.hi, t.lo, t.pc)) =
      some ((Config.divSpecial true 5#32 0#32).1, (Config.divSpecial true 5#32 0#32).2, 0x3014#32) := by rfl

/-- V24: a load of a byte that nothing has written completes with a fresh value (R35), and the draw is counted. -/
theorem test_V24_lbu_unwritten :
    after (exec (.lbu 3#5 0#16 16#5) (before [.reg 16#5 0x108#32])) (fun t => (t.readReg 3#5, t.draws)) =
      some ((Config.freeByte 0 0x108).zeroExtend 32, 1) := by rfl

/-! ### Faults of the model (R232) and their order (R233) -/

/-- V23, V41: an aligned access outside `DMEM`. -/
theorem test_V23_V41_unmapped :
    faultOf (step (start [.reg 16#5 0x3000#32] 0x8E030000)) = some (.unmappedAccess 0x3000#32) ∧
      faultOf (step (start [.reg 16#5 0x3000#32] 0xAE030000)) = some (.unmappedAccess 0x3000#32) := by decide

/-- V22, V42: misaligned and outside `DMEM`: the exception wins. -/
theorem test_V22_V42_exception_wins :
    after (step (start [.reg 16#5 0x3000#32] 0x86030001)) (fun t => (t.readCp0 8#5, t.pc)) =
        some (0x3001#32, 0x4180#32) ∧
      after (step (start [.reg 16#5 0x3000#32] 0xA6030001)) (fun t => (t.readCp0 8#5, t.pc)) =
        some (0x3001#32, 0x4180#32) := by decide

/-- Part 4: a fetch where no text is; from `State.reset` too, whose text is empty. -/
theorem test_fetch_unmapped :
    faultOf (step State.reset) = some (.fetchUnmapped 0x3000#32) ∧
      faultOf (step (before [.pc 0#32])) = some (.fetchUnmapped 0#32) := by decide

/-- Part 4: a fetch at 0x3002; alignment is tested before mapping (R233). -/
theorem test_fetch_misaligned : faultOf (step (before [.pc 0x3002#32])) = some (.misalignedFetch 0x3002#32) := by decide

/-- V237 at `pc`. -/
theorem test_illegal_word :
    faultOf (step (start [] 0x00208810)) = some (.illegalInstruction 0x3010#32 0x00208810#32) := by decide

/-! ### The host's two questions -/

theorem test_decodeTableWord : decodeTableWord 32 0x02538820 = some (.add 17#5 18#5 19#5) := by decide
theorem test_decodeTableWord_refuses : decodeTableWord 32 0x00208810 = none := by decide
theorem test_first_instruction_after_reset :
    after (step (State.reset.withFetchWord 32 0x3C1155AA)) (fun t => (t.readReg 17#5, t.pc)) =
      some (0x55AA0000#32, 0x3004#32) := by decide
theorem test_core_is_step : Sys2Proof.core.step = step ∧ Sys2Proof.core.reset = State.reset := ⟨rfl, rfl⟩

/-! ### A program (95_test_vectors.md, P5): no delay slot -/

/-- Put a word into the program text. -/
def text (s : State) (a : Nat) (w : Word) : State :=
  { s with cfg := { s.cfg with imem := Memory.writeBytes s.cfg.imem a (bytesOfWord w) } }

/-- P5 at its launch. -/
def programP5 : State :=
  text (text (text (text (text (text State.reset 0x3000 0x34100001#32) 0x3004 0x0C000C04#32) 0x3008 0x34100002#32)
    0x300C 0x08000C06#32) 0x3010 0x26100010#32) 0x3014 0x03E00008#32

theorem test_P5_link : after (step (programP5.setPc 0x3004#32)) (fun t => (t.readReg 31#5, t.pc)) =
    some (0x3008#32, 0x3010#32) := by decide

/-! ### Witnesses: the hypotheses of each obligation, and each guarded clause, are met -/

/-- O1, O2, O3, O5: exact results at both ends of the signed range, and one beyond each end. -/
theorem test_witness_O1_O2_O3_O5 :
    (let s := before [.reg 1#5 0x7FFFFFFF#32]
     (s.readReg 1#5).toInt + (s.readReg 0#5).toInt = 2147483647 ∧
       (s.readReg 1#5).toInt - (s.readReg 0#5).toInt = 2147483647) ∧
    (let s := before [.reg 1#5 0x7FFFFFFF#32, .reg 2#5 1#32, .reg 3#5 0xFFFFFFFF#32]
     (s.readReg 1#5).toInt + (s.readReg 2#5).toInt = 2147483648 ∧
       (s.readReg 1#5).toInt - (s.readReg 3#5).toInt = 2147483648 ∧
       (s.readReg 1#5).toInt + (1#16 : Half).toInt = 2147483648) ∧
    (let s := before [.reg 1#5 0x80000000#32]
     (s.readReg 1#5).toInt + (s.readReg 0#5).toInt = -2147483648 ∧
       (s.readReg 1#5).toInt - (s.readReg 0#5).toInt = -2147483648) ∧
    (let s := before [.reg 1#5 0x80000000#32, .reg 2#5 1#32, .reg 3#5 0xFFFFFFFF#32]
     (s.readReg 1#5).toInt + (s.readReg 3#5).toInt = -2147483649 ∧
       (s.readReg 1#5).toInt - (s.readReg 2#5).toInt = -2147483649 ∧
       (s.readReg 1#5).toInt + (0xFFFF#16 : Half).toInt = -2147483649) := by decide

/-- O14: a zero divisor, -2^31 / -1, and their neighbours -2^31 / 1 and -2^31 + 1 / -1. -/
theorem test_witness_O14 :
    let s := before [.reg 1#5 0x80000000#32, .reg 2#5 0xFFFFFFFF#32, .reg 3#5 1#32, .reg 4#5 0x80000001#32]
    (s.readReg 0#5).toInt = 0 ∧ ((s.readReg 1#5).toInt = -2147483648 ∧ (s.readReg 2#5).toInt = -1) ∧
      ¬((s.readReg 3#5).toInt = 0 ∨ ((s.readReg 1#5).toInt = -2147483648 ∧ (s.readReg 3#5).toInt = -1)) ∧
      ¬((s.readReg 2#5).toInt = 0 ∨ ((s.readReg 4#5).toInt = -2147483648 ∧ (s.readReg 2#5).toInt = -1)) := by decide

/-- O15: a zero divisor and the divisor 1. -/
theorem test_witness_O15 :
    let s := before [.reg 1#5 1#32]
    (s.readReg 0#5).toNat = 0 ∧ (s.readReg 1#5).toNat ≠ 0 := by decide

/-- O16 to O21: the last mapped byte, halfword and word, the first unmapped address, and a misaligned address on
each side of the boundary. -/
theorem test_witness_O16_to_O21 :
    let s := before [.reg 1#5 0x2FF8#32, .reg 2#5 0x3000#32]
    let at1 : Half → Word := fun o => s.readReg 1#5 + o.signExtend 32
    let at2 : Half → Word := fun o => s.readReg 2#5 + o.signExtend 32
    s.cfg.mapsData (at1 7#16) = true ∧
      (s.cfg.mapsData (at1 6#16) = true ∧ (at1 6#16).toNat % 2 = 0) ∧
      (s.cfg.mapsData (at1 4#16) = true ∧ (at1 4#16).toNat % 4 = 0) ∧
      (s.cfg.mapsData (at2 0#16) = false ∧ (at2 0#16).toNat % 4 = 0) ∧
      (at1 7#16).toNat % 2 ≠ 0 ∧ (at1 6#16).toNat % 4 ≠ 0 ∧ (at2 1#16).toNat % 2 ≠ 0 ∧
      (at2 2#16).toNat % 4 ≠ 0 := by decide

/-- O22, O23: equal and unequal operands; -1, 0 and 1 on both sides of zero. -/
theorem test_witness_O22_O23 :
    let s := before [.reg 1#5 0xFFFFFFFF#32, .reg 2#5 1#32]
    s.readReg 1#5 ≠ s.readReg 2#5 ∧ (s.readReg 1#5).toInt = -1 ∧ (s.readReg 0#5).toInt = 0 ∧
      (s.readReg 2#5).toInt = 1 := by decide

/-- The state of a vector under another CP0 policy and number of EPC. -/
def under (p : Cp0Policy) (i : Reg) (s : State) : State :=
  { s with cfg := { s.cfg with cp0Policy := p, epcIdx := i } }

/-- O30: M32 with EPC another cell than 12 (its neighbours 11 and 13), and the identity policy. -/
theorem test_witness_O30 :
    (∃ s : State, s.cfg.cp0Policy = .m32 ∧ s.cfg.epcIdx ≠ 12#5 ∧ s.cfg.epcIdx = 11#5) ∧
      (∃ s : State, s.cfg.cp0Policy = .m32 ∧ s.cfg.epcIdx ≠ 12#5 ∧ s.cfg.epcIdx = 13#5) ∧
      ∃ s : State, s.cfg.cp0Policy = .identity :=
  ⟨⟨under .m32 11#5 (before []), by decide⟩, ⟨under .m32 13#5 (before []), by decide⟩,
    ⟨under .identity 14#5 (before []), by decide⟩⟩

/-- O34: M32 with EPC none of the cells 8, 12, 13, and a cell that is none of the four. -/
theorem test_witness_O34 :
    let s := before []
    s.cfg.cp0Policy = .m32 ∧ s.cfg.epcIdx ≠ 13#5 ∧ s.cfg.epcIdx ≠ 12#5 ∧ s.cfg.epcIdx ≠ 8#5 ∧
      (9#5 ≠ s.cfg.epcIdx ∧ (9#5 : Reg) ≠ 13#5 ∧ (9#5 : Reg) ≠ 12#5 ∧ (9#5 : Reg) ≠ 8#5) := by decide

/-- O35: an instruction that raises, and one of the same kind that does not and completes. -/
theorem test_witness_O35 :
    raisedBy (.lw 3#5 2#16 0#5) (before []) = some (.addressError .load 2#32) ∧
      raisedBy (.lw 3#5 0#16 0#5) (before [.mem 0 7#32]) = none ∧
      (∃ t, exec (.lw 3#5 0#16 0#5) (before [.mem 0 7#32]) = .next t ∧ t.readReg 3#5 = 7#32) ∧
      (∀ rt rd, Instr.lw 3#5 0#16 0#5 ≠ .mtc0 rt rd) ∧ Instr.lw 3#5 0#16 0#5 ≠ .eret :=
  ⟨by decide, by decide, exists_of_after (by decide), by simp, by decide⟩

/-- O37, O40: a word that decodes, and the row that matches it. -/
theorem test_witness_O37_O40 :
    decodeWord 0xFC00FFFF#32 ≠ .ok .eret ∧ decodeWord 0x03FFFFCC#32 = .ok (.syscall 0xFFFFF#20) ∧
      ∃ r ∈ opcodeTable, r.matchesWord 0x03FFFFCC#32 = true :=
  ⟨by decide, by decide, ⟨.syscall, 0xFC00003F#32, 0x0000000C#32⟩, by decide, by decide⟩

/-- O39: words that meet each clause: unlisted opcodes next to listed ones; REGIMM selectors 0, 1, 2 and 31; COP0
words of the two selectors, ERET, a third selector, and nonzero low bits. -/
theorem test_witness_O39 :
    opcodeOf 0x40000000#32 = 0x10#6 ∧ opcodeOf 0x44000000#32 = 0x11#6 ∧ opcodeOf 0x7C000000#32 = 0x1F#6 ∧
      opcodeOf 0xB0000000#32 = 0x2C#6 ∧
      (opcodeOf 0x04000000#32 = 0x01#6 ∧ rtOf 0x04000000#32 = 0b00000#5) ∧
      (opcodeOf 0x04010000#32 = 0x01#6 ∧ rtOf 0x04010000#32 = 0b00001#5) ∧
      (opcodeOf 0x04020000#32 = 0x01#6 ∧ rtOf 0x04020000#32 = 2#5) ∧
      (opcodeOf 0x041F0000#32 = 0x01#6 ∧ rtOf 0x041F0000#32 = 31#5) ∧
      (opcodeOf 0x40117000#32 = 0x10#6 ∧ rsOf 0x40117000#32 = 0b00000#5 ∧
        (0x40117000#32 : Word).extractLsb' 0 11 = 0#11) ∧
      (opcodeOf 0x40917000#32 = 0x10#6 ∧ rsOf 0x40917000#32 = 0b00100#5 ∧
        (0x40917000#32 : Word).extractLsb' 0 11 = 0#11) ∧
      opcodeOf 0x42000018#32 = 0x10#6 ∧
      (opcodeOf 0x42000000#32 = 0x10#6 ∧ rsOf 0x42000000#32 = 16#5) ∧
      (opcodeOf 0x40000001#32 = 0x10#6 ∧ (0x40000001#32 : Word).extractLsb' 0 11 ≠ 0#11) := by decide

/-- O42: the bytes of a word that decodes, at an aligned `pc`. -/
theorem test_witness_O42 :
    let s := start [] 0x3C1155AA
    s.pc.toNat % 4 = 0 ∧
      (∀ k < 4, Memory.read s.cfg.imem (s.pc.toNat + k) = some ((0x3C1155AA#32 : Word).extractLsb' (8 * k) 8)) ∧
      decodeWord 0x3C1155AA#32 = .ok (.lui 17#5 0x55AA#16) := by decide

/-- O43: a `pc` that is no multiple of 4; one whose last text byte is missing; one with an illegal word. -/
theorem test_witness_O43 :
    (before [.pc 0x3011#32]).pc.toNat % 4 ≠ 0 ∧
      (let s := { before [] with cfg := { resetConfig with imem := Memory.writeBytes [] 0x3010 [1#8, 2#8, 3#8] } }
       s.pc.toNat % 4 = 0 ∧ ∃ k < 4, Memory.read s.cfg.imem (s.pc.toNat + k) = none) ∧
      (let s := start [] 0xFFFFFFFF
       s.pc.toNat % 4 = 0 ∧
         ∀ k < 4, Memory.read s.cfg.imem (s.pc.toNat + k) = some ((0xFFFFFFFF#32 : Word).extractLsb' (8 * k) 8)) ∧
      ∀ i, decodeWord 0xFFFFFFFF#32 ≠ .ok i := by
  refine ⟨by decide, by decide, by decide, fun i h => ?_⟩
  have : decodeWord 0xFFFFFFFF#32 = .reject (.unknownOpcode 0x3F#6) := by decide
  rw [this] at h
  exact Decoded.noConfusion h

/-- O44, O45: a state that reset may leave, under a configuration with a text, whose registers are not 0. -/
theorem test_witness_O44_O45 :
    ∃ (cfg : Config) (s : State), Memory.wf cfg.imem = true ∧ cfg.imem ≠ [] ∧ IsAfterReset cfg s ∧
      s.readReg 5#5 = 9#32 :=
  ⟨programP5.cfg, programP5.writeReg 5#5 9#32, by decide, by decide, ⟨by decide, by decide, by decide⟩, by decide⟩

/-- Launch values: every register and cell 7, one data word at an address. -/
def launchValues (a : Nat) : LaunchValues :=
  ⟨Vector.replicate 31 7#32, 7#32, 7#32, Vector.replicate 32 7#32, Memory.writeBytes [] a [1#8, 0#8, 0#8, 0#8]⟩

/-- O46: a launch that meets the constraints, its data in the last word of DMEM. -/
theorem test_witness_O46_accepted :
    LaunchMeets programP5.cfg (launchValues 0x2FFC) ∧
      ∃ t, launch programP5.cfg (launchValues 0x2FFC) = .next t ∧ t.pc = 0x3000#32 :=
  ⟨by unfold LaunchMeets; decide, exists_of_after (by decide)⟩

/-- O46: launches that break one constraint each: EXC_VECTOR or RESET_PC misaligned; RESET_PC outside the text; the
text short of a byte; a misaligned data region; one past the address space; text and data overlapping; initial data
outside DMEM. -/
theorem test_witness_O46_refused :
    (∀ c ∈ [ { programP5.cfg with excVector := 0x4181#32 }, { programP5.cfg with resetPc := 0x3002#32 },
        { programP5.cfg with resetPc := 0x3018#32 },
        { programP5.cfg with imem := Memory.write programP5.cfg.imem 0x3018 0#8 },
        { programP5.cfg with dmemMap := [⟨0x2FFD#32, 1⟩, ⟨0x2FFC#32, 1⟩] },
        { programP5.cfg with dmemMap := [⟨0x2FFC#32, 1⟩, ⟨0xFFFFFFFC#32, 2⟩] },
        { programP5.cfg with dmemMap := [⟨0x2FFC#32, 1⟩, ⟨0x3014#32, 1⟩] } ],
      ¬ LaunchMeets c (launchValues 0x2FFC)) ∧ ¬ LaunchMeets programP5.cfg (launchValues 0x3000) := by
  unfold LaunchMeets; decide

/-- The word store of V32. -/
def storing : State := start [.mem 0x200 0x11223344#32, .reg 3#5 0xDEADBEAA#32, .reg 16#5 0x200#32] 0xAE030000

/-- O47, O48: a state that meets the invariant, with text and data, whose step is a store. -/
theorem test_witness_O47_O48 :
    Inv storing ∧ (∃ t, step storing = .next t ∧ t.readData8 0x203#32 = 0xDE#8) ∧
      ∃ t, exec (.sw 3#5 0#16 16#5) storing = .next t ∧ t.readData8 0x203#32 = 0xDE#8 :=
  ⟨⟨by decide, by decide, by unfold DataMapped; decide⟩, exists_of_after (by decide), exists_of_after (by decide)⟩

/-- O49: an ADDU with a register it does not write, and two states that differ in a register it does not read. -/
theorem test_witness_O49 :
    let s := before [.reg 2#5 5#32, .reg 4#5 1#32]
    let u := before [.reg 2#5 5#32, .reg 4#5 9#32]
    destReg (.addu 1#5 2#5 3#5) ≠ some 4#5 ∧ u = { s with gpr := u.gpr } ∧ u.readReg 4#5 ≠ s.readReg 4#5 ∧
      (∀ r ∈ sourceRegs (.addu 1#5 2#5 3#5), u.readReg r = s.readReg r) ∧
      (∃ t, exec (.addu 1#5 2#5 3#5) s = .next t ∧ t.readReg 1#5 = 5#32) ∧
      ∃ t, exec (.addu 1#5 2#5 3#5) u = .next t ∧ t.readReg 1#5 = 5#32 :=
  ⟨by decide, by decide, by decide, by decide, exists_of_after (by decide), exists_of_after (by decide)⟩

/-- O50: instructions that write neither HI nor LO, one of them, and both, each with a next state; a destination
other than register 0. -/
theorem test_witness_O50 :
    (1#5 : Reg) ≠ 0#5 ∧
    (writesHi (.mtlo 2#5) = false ∧ writesLo (.mthi 2#5) = false ∧ writesHi (.mthi 2#5) = true ∧
      writesLo (.multu 2#5 2#5) = true) ∧
      (∀ rd, Instr.mflo 1#5 ≠ .mfhi rd) ∧ (∀ rd, Instr.mfhi 1#5 ≠ .mflo rd) ∧
      (∃ t, exec (.mtlo 2#5) (before [.reg 2#5 5#32]) = .next t ∧ t.lo = 5#32) ∧
      ∃ t, exec (.mthi 2#5) (before [.reg 2#5 5#32]) = .next t ∧ t.hi = 5#32 :=
  ⟨by decide, by decide, by simp, by simp, exists_of_after (by decide), exists_of_after (by decide)⟩

/-- O51: the bytes just below and just above a stored word, a store from two memories, and an instruction that
reaches no data. -/
theorem test_witness_O51 :
    storeSpan (.sw 3#5 0#16 16#5) = some (16#5, 0#16, 4) ∧ (effAddr 16#5 0#16 storing).toNat = 0x200 ∧
      (0x1FF < (effAddr 16#5 0#16 storing).toNat ∧ (effAddr 16#5 0#16 storing).toNat + 4 ≤ 0x204) ∧
      readsData (.sw 3#5 0#16 16#5) = false ∧
      (∃ t, exec (.sw 3#5 0#16 16#5) (storing.setDmem []) = .next t ∧ t.readData8 0x200#32 = 0xAA#8) ∧
      (∃ t, exec (.sw 3#5 0#16 16#5) storing = .next t ∧ t.readData8 0x200#32 = 0xAA#8) ∧
      (readsData .eret = false ∧ accessesData .eret = false) ∧
      ∃ t, exec .eret (storing.setDmem []) = .next t ∧ t.dmem = [] :=
  ⟨by decide, by decide, by decide, by decide, exists_of_after (by decide), exists_of_after (by decide), by decide,
    exists_of_after (by decide)⟩

/-- O52: for ERET another CP0 file with the same EPC, for another instruction one with another EPC. -/
theorem test_witness_O52 :
    let s := before []
    let f := cp0Put s.cp0 12#5 0xFFFFFFFF#32
    let g := cp0Put s.cp0 14#5 0xFFFFFFFF#32
    (f ≠ s.cp0 ∧ (s.setCp0 f).epc = s.epc ∧ ∀ rt rd, Instr.eret ≠ .mfc0 rt rd) ∧
      ((s.setCp0 g).epc ≠ s.epc ∧ Instr.jr 1#5 ≠ .eret ∧ ∀ rt rd, Instr.jr 1#5 ≠ .mfc0 rt rd) :=
  ⟨⟨by decide, by decide, by simp⟩, by decide, by decide, by simp⟩

/-- O53: an aligned state and a taken branch. -/
theorem test_witness_O53 :
    let s := before []
    s.pc.toNat % 4 = 0 ∧ s.cfg.excVector.toNat % 4 = 0 ∧ copiesPc (.beq 0#5 0#5 3#16) = false ∧
      ∃ t, exec (.beq 0#5 0#5 3#16) s = .next t ∧ t.pc = 0x3020#32 :=
  ⟨by decide, by decide, by decide, exists_of_after (by decide)⟩

/-- O54: each store, aligned, at the last place it can be and just outside; another word. -/
theorem test_witness_O54 :
    let s := before [.reg 1#5 0x2FFC#32, .reg 2#5 0x3000#32]
    (∀ o : Half, o = 3#16 → (s.readReg 1#5 + o.signExtend 32).toNat % 1 = 0 ∧
        s.cfg.mapsData (s.readReg 1#5 + o.signExtend 32) = true) ∧
      (∀ o : Half, o = 2#16 → (s.readReg 1#5 + o.signExtend 32).toNat % 2 = 0 ∧
        s.cfg.mapsData (s.readReg 1#5 + o.signExtend 32) = true) ∧
      (∀ o : Half, o = 0#16 → (s.readReg 1#5 + o.signExtend 32).toNat % 4 = 0 ∧
        s.cfg.mapsData (s.readReg 1#5 + o.signExtend 32) = true ∧
        s.cfg.mapsData (s.readReg 2#5 + o.signExtend 32) = false) ∧
      containingWord 0x2FF8#32 ≠ containingWord (s.readReg 1#5) := by
  refine ⟨?_, ?_, ?_, by decide⟩ <;> · rintro o rfl; decide

/-- O55: an aligned mapped base, the last one, and a register that can be written. -/
theorem test_witness_O55 :
    let s := before [.reg 1#5 0x2FFC#32]
    (s.readReg 1#5).toNat % 4 = 0 ∧ s.cfg.mapsData (s.readReg 1#5) = true ∧ (31#5 : Reg) ≠ 0#5 := by decide

/-- O56: a run that is complete before its first step, one that completes after a step, one that faults; and a
state where HALT is false before each of those steps. -/
theorem test_witness_O56 :
    (fun s : State => s.pc == 0x3000#32) State.reset = true ∧
      (∃ t, runTo (fun s => s.pc == 0x3004#32) 1 programP5 = .completed t) ∧
      ((fun s : State => s.pc == 0x3004#32) programP5 = false ∧
        ∃ t, step programP5 = .next t ∧ t.pc = 0x3004#32) ∧
      step State.reset = .fault (.fetchUnmapped 0x3000#32) ∧
      runTo (fun _ => false) 1 State.reset = .faulted (.fetchUnmapped 0x3000#32) :=
  ⟨by decide, ⟨_, rfl⟩, ⟨by decide, exists_of_after (by decide)⟩, eq_of_faultOf (by decide), by decide⟩

/-- O57: registers that can be written; the special and the ordinary divisor; a writer of HI and one of LO; mapped
addresses of each alignment. -/
theorem test_witness_O57 :
    ((1#5 : Reg) ≠ 0#5 ∧ (31#5 : Reg) ≠ 0#5) ∧
      ((storing.readReg 0#5).toNat = 0 ∧ (storing.readReg 16#5).toNat ≠ 0 ∧ (storing.readReg 16#5).toInt ≠ 0 ∧
        (storing.readReg 16#5).toInt ≠ -1) ∧
      (writesHi (.mthi 1#5) || writesLo (.mthi 1#5)) = true ∧ (writesHi (.mtlo 1#5) || writesLo (.mtlo 1#5)) = true ∧
      storing.cfg.mapsData (effAddr 0#5 0x2FFF#16 storing) = true ∧
      (storing.cfg.mapsData (effAddr 0#5 0x2FFE#16 storing) = true ∧ (effAddr 0#5 0x2FFE#16 storing).toNat % 2 = 0) ∧
      (storing.cfg.mapsData (effAddr 0#5 0x2FFC#16 storing) = true ∧ (effAddr 0#5 0x2FFC#16 storing).toNat % 4 = 0) ∧
      ∃ t, exec (.lw 1#5 0x200#16 0#5) storing = .next t ∧ t.readReg 1#5 = 0x11223344#32 :=
  ⟨by decide, by decide, by decide, by decide, by decide, by decide, by decide, exists_of_after (by decide)⟩

/-- O59: addresses of each lane, the first and the last of both widths, in the last mapped word. -/
theorem test_witness_O59 :
    (∀ k < 4, storing.cfg.mapsData (effAddr 0#5 (0x2FFC#16 + BitVec.ofNat 16 k) storing) = true ∧
      (effAddr 0#5 (0x2FFC#16 + BitVec.ofNat 16 k) storing).extractLsb' 0 2 = BitVec.ofNat 2 k) ∧
    (∀ k < 2, (effAddr 0#5 (0x2FFC#16 + BitVec.ofNat 16 (2 * k)) storing).extractLsb' 0 2 = BitVec.ofNat 2 (2 * k)) ∧
      (3#5 : Reg) ≠ 0#5 := by decide

/-- O58: a line that the assembler takes. -/
theorem test_witness_O58 : ∃ i, assemble ⟨.eret, []⟩ = some i := ⟨.eret, by decide⟩

end Sys2Proof.Tests
end

section
/-! PROOFS of the family 00_scope.md. The bytes of a word in the program text are fetched as that word (R60), and
the step is then `exec` of what the word decodes to (R13). -/

namespace Sys2Proof.Machine

/-- Four reads of the text that give the bytes of a word, the lowest address first, are one fetch of it (R60). -/
theorem textBytes_of_word_bytes {imem : Memory} {a : Nat} {w : Word}
    (h : ∀ k < 4, Memory.read imem (a + k) = some (w.extractLsb' (8 * k) 8)) :
    textBytes imem a = some [byteOfWord w 0, byteOfWord w 1, byteOfWord w 2, byteOfWord w 3] := by
  have h0 : Memory.read imem a = some (byteOfWord w 0) := h 0 (by decide)
  have h1 : Memory.read imem (a + 1) = some (byteOfWord w 1) := h 1 (by decide)
  have h2 : Memory.read imem (a + 2) = some (byteOfWord w 2) := h 2 (by decide)
  have h3 : Memory.read imem (a + 3) = some (byteOfWord w 3) := h 3 (by decide)
  simp [textBytes, h0, h1, h2, h3]

/-- At an aligned pc that holds the bytes of a word which decodes, fetch and decode give its instruction. -/
theorem fetchDecode_ok {s : State} {w : Word} {i : Instr} (ha : s.pc.toNat % 4 = 0)
    (hb : ∀ k < 4, Memory.read s.cfg.imem (s.pc.toNat + k) = some (w.extractLsb' (8 * k) 8))
    (hd : decodeWord w = .ok i) : fetchDecode s = .ok i := by
  rw [fetchDecode_word s _ _ _ _ ha (textBytes_of_word_bytes hb), wordOfBytes_bytesOfWord, hd]

/-- Once fetch and decode have given an instruction, the step is its execution and nothing else (R13). -/
theorem step_of_fetchDecode_ok {s : State} {i : Instr} (h : fetchDecode s = .ok i) : step s = exec i s := by
  rw [step, h]

/-- Settles O42: the word's bytes are fetched as the word, which decodes to the instruction that the step runs. -/
theorem stepRunsTheDecodedInstruction : Obligations.StepRunsTheDecodedInstruction := by
  intro s w i ha hb hd
  exact step_of_fetchDecode_ok (fetchDecode_ok ha hb hd)

end Sys2Proof.Machine
end

section
/-! PROOFS of the family 10_state.md. Every instruction is brought to one form: it reads its operands (R23, R27, R29,
R50) and chooses an EFFECT, one of nine kinds with the values in it, and the effect updates the state. What steps keep
is then shown once per kind of effect, and what an instruction reads is the question which effect it chooses. -/

namespace Sys2Proof.Machine

/-! ### The effects -/

/-- What is left of an instruction once its operands have been read. -/
inductive Effect where
  /-- `x[rd] <- v`. -/
  | reg (rd : Reg) (v : Word)
  /-- `x[rt] <- v`, a load of `n` bytes at `addr`. -/
  | load (rt : Reg) (addr : Word) (n : Nat) (v : Word)
  /-- The bytes, stored from `addr` on. -/
  | store (addr : Word) (bytes : List Byte)
  /-- `hi` and `lo`, those of the two that are given. -/
  | hiLo (hi lo : Option Word)
  /-- `cp0[rd] <- v`. -/
  | cp0 (rd : Reg) (v : Word)
  /-- `pc <- target`. -/
  | jump (target : Word)
  /-- `x[rd] <- v` and `pc <- target`. -/
  | link (rd : Reg) (v target : Word)
  /-- Exception entry (R226). -/
  | raise (e : Exc)
  /-- The return from an exception to `target` (R230). -/
  | ret (target : Word)

/-- The state after an effect that meets mapped memory. -/
def Effect.update : Effect → State → State
  | .reg rd v, s => (s.writeReg rd v).advance
  | .load rt addr n v, s => ((s.afterRead addr.toNat n).writeReg rt v).advance
  | .store addr bytes, s => (s.setDmem (Memory.writeBytes s.dmem addr.toNat bytes)).advance
  | .hiLo hi lo, s => ((s.setHi (hi.getD s.hi)).setLo (lo.getD s.lo)).advance
  | .cp0 rd v, s => (s.writeCp0 rd v).advance
  | .jump target, s => s.setPc target
  | .link rd v target, s => (s.writeReg rd v).setPc target
  | .raise e, s => Machine.raise e s
  | .ret target, s => (s.setCp0 (cp0OnReturn s.cfg s.cp0)).setPc target

/-- The model fault of an access outside `DMEM` (R59); no other effect has one. -/
def Effect.fault (cfg : Config) : Effect → Option Fault
  | .load _ addr _ _ | .store addr _ => if cfg.mapsData addr then none else some (.unmappedAccess addr)
  | _ => none

/-- The outcome of an effect. -/
def Effect.apply (e : Effect) (s : State) : Result :=
  match e.fault s.cfg with
  | none => .next (e.update s)
  | some f => .fault f

/-- The result in `x[rd]`, or IntegerOverflow (R221). -/
def Effect.regOrOverflow (rd : Reg) (temp : BitVec 33) : Effect :=
  if overflowed temp then .raise .integerOverflow else .reg rd (temp.extractLsb' 0 32)

/-- The access, or AddressError (R222). -/
def Effect.onAligned (aligned : Bool) (kind : AccessKind) (addr : Word) (e : Effect) : Effect :=
  if aligned then e else .raise (.addressError kind addr)

/-- A branch taken or not (R170 to R175). -/
def Effect.branch (taken : Bool) (offset : Half) (pc : Word) : Effect :=
  .jump (if taken then branchTarget pc offset else pc + 4#32)

/-- The effect that an instruction chooses in a state; `exec_eq_apply` ties it to `exec`. -/
def effectOf (i : Instr) (s : State) : Effect :=
  match i with
  | .sll rd rt sa => .reg rd (shiftLeft (s.readReg rt) sa)
  | .srl rd rt sa => .reg rd (shiftRightLogical (s.readReg rt) sa)
  | .sra rd rt sa => .reg rd (shiftRightArith (s.readReg rt) sa)
  | .sllv rd rt rs => .reg rd (shiftLeft (s.readReg rt) (varShamt rs s))
  | .srlv rd rt rs => .reg rd (shiftRightLogical (s.readReg rt) (varShamt rs s))
  | .srav rd rt rs => .reg rd (shiftRightArith (s.readReg rt) (varShamt rs s))
  | .addu rd rs rt => .reg rd (s.readReg rs + s.readReg rt)
  | .subu rd rs rt => .reg rd (s.readReg rs - s.readReg rt)
  | .and rd rs rt => .reg rd (s.readReg rs &&& s.readReg rt)
  | .or rd rs rt => .reg rd (s.readReg rs ||| s.readReg rt)
  | .xor rd rs rt => .reg rd (s.readReg rs ^^^ s.readReg rt)
  | .nor rd rs rt => .reg rd (~~~(s.readReg rs ||| s.readReg rt))
  | .slt rd rs rt => .reg rd (setWord (lessSigned (s.readReg rs) (s.readReg rt)))
  | .sltu rd rs rt => .reg rd (setWord (lessUnsigned (s.readReg rs) (s.readReg rt)))
  | .addiu rt rs imm => .reg rt (s.readReg rs + signExtImm imm)
  | .slti rt rs imm => .reg rt (setWord (lessSigned (s.readReg rs) (signExtImm imm)))
  | .sltiu rt rs imm => .reg rt (setWord (lessUnsigned (s.readReg rs) (signExtImm imm)))
  | .andi rt rs imm => .reg rt (s.readReg rs &&& zeroExtImm imm)
  | .ori rt rs imm => .reg rt (s.readReg rs ||| zeroExtImm imm)
  | .xori rt rs imm => .reg rt (s.readReg rs ^^^ zeroExtImm imm)
  | .lui rt imm => .reg rt (upperImm imm)
  | .mfhi rd => .reg rd s.hi
  | .mflo rd => .reg rd s.lo
  | .mfc0 rt rd => .reg rt (s.readCp0 rd)
  | .add rd rs rt => .regOrOverflow rd (addTemp (s.readReg rs) (s.readReg rt))
  | .sub rd rs rt => .regOrOverflow rd (subTemp (s.readReg rs) (s.readReg rt))
  | .addi rt rs imm => .regOrOverflow rt (addImmTemp (s.readReg rs) imm)
  | .mult rs rt =>
    let p := signedProduct (s.readReg rs) (s.readReg rt)
    .hiLo (some (p.extractLsb' 32 32)) (some (p.extractLsb' 0 32))
  | .multu rs rt =>
    let p := unsignedProduct (s.readReg rs) (s.readReg rt)
    .hiLo (some (p.extractLsb' 32 32)) (some (p.extractLsb' 0 32))
  | .div rs rt =>
    let r := signedDivision (s.readReg rs) (s.readReg rt)
    .hiLo (some r.1) (some r.2)
  | .divu rs rt =>
    let r := unsignedDivision (s.readReg rs) (s.readReg rt)
    .hiLo (some r.1) (some r.2)
  | .mthi rs => .hiLo (some (s.readReg rs)) none
  | .mtlo rs => .hiLo none (some (s.readReg rs))
  | .mtc0 rt rd => .cp0 rd (s.readReg rt)
  | .beq rs rt offset => .branch (s.readReg rs == s.readReg rt) offset s.pc
  | .bne rs rt offset => .branch (s.readReg rs != s.readReg rt) offset s.pc
  | .blez rs offset => .branch (decide ((s.readReg rs).toInt ≤ 0)) offset s.pc
  | .bgtz rs offset => .branch (decide (0 < (s.readReg rs).toInt)) offset s.pc
  | .bltz rs offset => .branch (decide ((s.readReg rs).toInt < 0)) offset s.pc
  | .bgez rs offset => .branch (decide (0 ≤ (s.readReg rs).toInt)) offset s.pc
  | .j index => .jump (jumpAddr s.pc index)
  | .jr rs => .jump (s.readReg rs)
  | .jal index => .link 31#5 (s.pc + 4#32) (jumpAddr s.pc index)
  | .jalr rd rs => .link rd (s.pc + 4#32) (s.readReg rs)
  | .brk _ => .raise .breakpoint
  | .syscall _ => .raise .syscall
  | .eret => .ret s.epc
  | .lb rt offset base =>
    let addr := effAddr base offset s
    .load rt addr 1 ((s.readData8 addr).signExtend 32)
  | .lbu rt offset base =>
    let addr := effAddr base offset s
    .load rt addr 1 ((s.readData8 addr).zeroExtend 32)
  | .lh rt offset base =>
    let addr := effAddr base offset s
    .onAligned (aligned2 addr) .load addr (.load rt addr 2 ((s.readData16 addr).signExtend 32))
  | .lhu rt offset base =>
    let addr := effAddr base offset s
    .onAligned (aligned2 addr) .load addr (.load rt addr 2 ((s.readData16 addr).zeroExtend 32))
  | .lw rt offset base =>
    let addr := effAddr base offset s
    .onAligned (aligned4 addr) .load addr (.load rt addr 4 (s.readData32 addr))
  | .sb rt offset base => .store (effAddr base offset s) [byteOfWord (s.readReg rt) 0]
  | .sh rt offset base =>
    let addr := effAddr base offset s
    .onAligned (aligned2 addr) .store addr (.store addr [byteOfWord (s.readReg rt) 0, byteOfWord (s.readReg rt) 1])
  | .sw rt offset base =>
    let addr := effAddr base offset s
    .onAligned (aligned4 addr) .store addr (.store addr (bytesOfWord (s.readReg rt)))

/-! ### The effects are the model's shared operations -/

theorem Effect.load_apply (rt : Reg) (addr : Word) (n : Nat) (v : Word) (s : State) :
    (Effect.load rt addr n v).apply s = finishLoad rt addr n v s := by
  cases h : s.cfg.mapsData addr <;> simp [Effect.apply, Effect.fault, Effect.update, finishLoad, h]

theorem Effect.store_apply (addr : Word) (bytes : List Byte) (s : State) :
    (Effect.store addr bytes).apply s = finishStore addr bytes s := by
  cases h : s.cfg.mapsData addr <;> simp [Effect.apply, Effect.fault, Effect.update, finishStore, h]

theorem Effect.regOrOverflow_apply (rd : Reg) (temp : BitVec 33) (s : State) :
    (Effect.regOrOverflow rd temp).apply s = finishOrOverflow rd temp s := by
  unfold Effect.regOrOverflow finishOrOverflow
  split <;> rfl

theorem Effect.onAligned_apply (aligned : Bool) (kind : AccessKind) (addr : Word) (e : Effect) (s : State) :
    (Effect.onAligned aligned kind addr e).apply s = ifAligned aligned kind addr (e.apply s) s := by
  cases aligned <;> rfl

theorem Effect.branch_apply (taken : Bool) (offset : Half) (s : State) :
    (Effect.branch taken offset s.pc).apply s = Machine.branch taken offset s := by
  cases taken <;> rfl

/-- Executing an instruction is applying the effect that it chooses. -/
theorem exec_eq_apply (i : Instr) (s : State) : exec i s = (effectOf i s).apply s := by
  cases i with
  | add | sub | addi => exact (Effect.regOrOverflow_apply _ _ s).symm
  | beq | bne | blez | bgtz | bltz | bgez => exact (Effect.branch_apply _ _ s).symm
  | lb | lbu => exact (Effect.load_apply _ _ _ _ s).symm
  | lh | lhu | lw => exact (Effect.onAligned_apply .. |>.trans (by rw [Effect.load_apply]; rfl)).symm
  | sb => exact (Effect.store_apply _ _ s).symm
  | sh | sw => exact (Effect.onAligned_apply .. |>.trans (by rw [Effect.store_apply]; rfl)).symm
  | _ => rfl

/-! ### What each effect updates -/

/-- The general register that an effect writes, if it writes one. -/
def Effect.dest : Effect → Option Reg
  | .reg rd _ | .load rd _ _ _ | .link rd _ _ => some rd
  | _ => none

/-- The effects that write HI. -/
def Effect.writesHi : Effect → Bool
  | .hiLo hi _ => hi.isSome
  | _ => false

/-- The effects that write LO. -/
def Effect.writesLo : Effect → Bool
  | .hiLo _ lo => lo.isSome
  | _ => false

/-- A store's bytes lie in one aligned word, the one that contains its address. -/
def Effect.InWord : Effect → Prop
  | .store addr bytes => addr.toNat % 4 + bytes.length ≤ 4
  | _ => True

/-- A target that an effect puts in `pc` is a multiple of 4. -/
def Effect.TargetAligned : Effect → Prop
  | .jump target | .link _ _ target | .ret target => target.toNat % 4 = 0
  | _ => True

/-- An outcome is a next state exactly when the access, if there is one, is mapped; it is then the update. -/
theorem Effect.apply_next_iff {e : Effect} {s t : State} :
    e.apply s = .next t ↔ e.fault s.cfg = none ∧ t = e.update s := by
  unfold Effect.apply
  cases e.fault s.cfg <;> simp [eq_comm]

/-- A next state of an instruction is the update by its effect. -/
theorem exec_next {i : Instr} {s t : State} (h : exec i s = .next t) :
    (effectOf i s).fault s.cfg = none ∧ t = (effectOf i s).update s :=
  Effect.apply_next_iff.1 (exec_eq_apply i s ▸ h)

/-- No effect changes the configuration (R7, R33, R65). -/
@[simp] theorem Effect.update_cfg (e : Effect) (s : State) : (e.update s).cfg = s.cfg := by
  cases e <;> simp [Effect.update]

theorem Effect.update_hi {e : Effect} (s : State) (h : e.writesHi = false) : (e.update s).hi = s.hi := by
  cases e with
  | hiLo hi lo =>
    obtain rfl : hi = none := by simpa [Effect.writesHi] using h
    rfl
  | _ => simp [Effect.update]

theorem Effect.update_lo {e : Effect} (s : State) (h : e.writesLo = false) : (e.update s).lo = s.lo := by
  cases e with
  | hiLo hi lo =>
    obtain rfl : lo = none := by simpa [Effect.writesLo] using h
    rfl
  | _ => simp [Effect.update]

/-- An effect leaves every general register but its destination as it was. -/
theorem Effect.update_readReg_other {e : Effect} {r : Reg} (s : State) (h : e.dest ≠ some r) :
    (e.update s).readReg r = s.readReg r := by
  cases e with
  | reg rd | load rd | link rd =>
    have hr : r ≠ rd := fun hr => h (congrArg some hr.symm)
    simp [Effect.update, readReg_writeReg_other _ _ _ _ hr]
  | _ => simp [Effect.update]

/-- The destination receives the effect's own value, whatever the state. -/
theorem Effect.update_readReg_dest {e : Effect} {r : Reg} (s u : State) (h : e.dest = some r) :
    (e.update u).readReg r = (e.update s).readReg r := by
  cases e with
  | reg rd | load rd | link rd =>
    obtain rfl : rd = r := Option.some.inj h
    simp [Effect.update]
  | _ => cases h

/-! ### An effect does not read the registers that it leaves alone -/

/-- Only the draw counter can move at a load, and it does so if a byte was never written (R35). -/
theorem State.afterRead_eq (s : State) (a n : Nat) :
    s.afterRead a n =
      { s with draws := if ∃ k < n, Memory.read s.dmem (a + k) = none then s.draws + 1 else s.draws } := by
  rw [← afterRead_draws]
  unfold State.afterRead
  split <;> rfl

/-- An effect that writes HI hides what it held; any other leaves it and does nothing else differently. -/
theorem Effect.update_setHi (e : Effect) (s : State) (h : Word) :
    e.update (s.setHi h) = if e.writesHi then e.update s else (e.update s).setHi h := by
  cases e with
  | load => simp only [Effect.update, State.afterRead_eq]; rfl
  | hiLo hi lo => cases hi <;> rfl
  | _ => rfl

/-- An effect that writes LO hides what it held; any other leaves it and does nothing else differently. -/
theorem Effect.update_setLo (e : Effect) (s : State) (l : Word) :
    e.update (s.setLo l) = if e.writesLo then e.update s else (e.update s).setLo l := by
  cases e with
  | load => simp only [Effect.update, State.afterRead_eq]; rfl
  | hiLo hi lo => cases lo <;> rfl
  | _ => rfl

/-- Apart from the general registers, an update does not depend on them. -/
theorem Effect.update_with_gpr (e : Effect) (s : State) (g : Vector Word 31) :
    { e.update { s with gpr := g } with gpr := (e.update s).gpr } = e.update s := by
  cases e with
  | load => simp only [Effect.update, State.afterRead_eq]; rfl
  | _ => rfl

/-- One effect in two states with one configuration: the outcomes agree if the updates do. -/
theorem Effect.agreeBut_apply {put : State → State → State} {e : Effect} {s u : State} (hc : u.cfg = s.cfg)
    (h : put (e.update s) (e.update u) = e.update s) : AgreeBut put (e.apply s) (e.apply u) := by
  unfold Effect.apply
  rw [hc]
  cases e.fault s.cfg with
  | none => exact h
  | some f => rfl

/-! ### Which effects an instruction can choose -/

/-- What holds of the exception and of the written register holds of an instruction that traps on overflow. -/
theorem Effect.regOrOverflow_induction {P : Effect → Prop} {rd : Reg} {temp : BitVec 33}
    (trap : P (.raise .integerOverflow)) (result : P (.reg rd (temp.extractLsb' 0 32))) :
    P (.regOrOverflow rd temp) := by
  unfold Effect.regOrOverflow
  split
  exacts [trap, result]

/-- What holds of the exception, and of the access at an aligned address, holds of an access that is checked. -/
theorem Effect.onAligned_induction {P : Effect → Prop} {aligned : Bool} {kind : AccessKind} {addr : Word}
    {e : Effect} (trap : P (.raise (.addressError kind addr))) (access : aligned = true → P e) :
    P (.onAligned aligned kind addr e) := by
  cases aligned
  exacts [trap, access rfl]

/-- The effect writes the destination that R23 lists, or, where an exception is raised, no register. -/
theorem effectOf_dest (i : Instr) (s : State) : (effectOf i s).dest = none ∨ (effectOf i s).dest = destReg i := by
  cases i with
  | add rd | sub rd | addi rd =>
    exact Effect.regOrOverflow_induction (P := fun e => e.dest = none ∨ e.dest = some rd) (.inl rfl) (.inr rfl)
  | lh rt | lhu rt | lw rt =>
    exact Effect.onAligned_induction (P := fun e => e.dest = none ∨ e.dest = some rt) (.inl rfl) fun _ => .inr rfl
  | sh | sw => exact .inl (Effect.onAligned_induction (P := fun e => e.dest = none) rfl fun _ => rfl)
  | _ => exact .inr rfl

/-- The effects that write HI are those of the instructions that R27 lists. -/
theorem effectOf_writesHi (i : Instr) (s : State) : (effectOf i s).writesHi = writesHi i := by
  cases i with
  | add | sub | addi => exact Effect.regOrOverflow_induction (P := fun e => e.writesHi = false) rfl rfl
  | lh | lhu | lw | sh | sw => exact Effect.onAligned_induction (P := fun e => e.writesHi = false) rfl fun _ => rfl
  | _ => rfl

/-- The effects that write LO are those of the instructions that R27 lists. -/
theorem effectOf_writesLo (i : Instr) (s : State) : (effectOf i s).writesLo = writesLo i := by
  cases i with
  | add | sub | addi => exact Effect.regOrOverflow_induction (P := fun e => e.writesLo = false) rfl rfl
  | lh | lhu | lw | sh | sw => exact Effect.onAligned_induction (P := fun e => e.writesLo = false) rfl fun _ => rfl
  | _ => rfl

/-- A store's access fits its word: one byte anywhere, two at an even address, four at a multiple of 4 (R54). -/
theorem effectOf_inWord (i : Instr) (s : State) : (effectOf i s).InWord := by
  cases i with
  | add | sub | addi => exact Effect.regOrOverflow_induction trivial trivial
  | lh | lhu | lw => exact Effect.onAligned_induction trivial fun _ => trivial
  | sb =>
    simp only [effectOf, Effect.InWord, List.length_singleton]
    omega
  | sh =>
    refine Effect.onAligned_induction trivial fun ha => ?_
    have hmod := (aligned2_iff _).1 ha
    simp only [Effect.InWord, List.length_cons, List.length_nil]
    omega
  | sw =>
    refine Effect.onAligned_induction trivial fun ha => ?_
    have hmod := (aligned4_iff _).1 ha
    simp only [Effect.InWord, bytesOfWord, List.length_cons, List.length_nil]
    omega
  | _ => trivial

theorem add_four_mod_four {pc : Word} (h : pc.toNat % 4 = 0) : (pc + 4#32).toNat % 4 = 0 := by
  rw [BitVec.toNat_add, BitVec.toNat_ofNat]
  omega

/-- Branch targets are multiples of 4 from an aligned `pc` (R26, R88). -/
theorem branchTarget_mod_four {pc : Word} (h : pc.toNat % 4 = 0) (offset : Half) :
    (branchTarget pc offset).toNat % 4 = 0 := by
  have h4 := add_four_mod_four h
  have ho : (offset ++ 0#2).toNat % 4 = 0 := by
    rw [BitVec.toNat_append, Nat.shiftLeft_eq]
    simp
  have hs : ((offset ++ 0#2).signExtend 32).toNat % 4 = 0 := by
    rw [BitVec.toNat_signExtend, BitVec.toNat_setWidth]
    split <;> omega
  rw [branchTarget, BitVec.toNat_add]
  omega

/-- Jump targets are multiples of 4 (R26, R89). -/
theorem jumpAddr_mod_four (pc : Word) (index : BitVec 26) : (jumpAddr pc index).toNat % 4 = 0 := by
  rw [jumpAddr, BitVec.toNat_append, Nat.shiftLeft_eq]
  simp

theorem Effect.branch_targetAligned {pc : Word} (h : pc.toNat % 4 = 0) (taken : Bool) (offset : Half) :
    (Effect.branch taken offset pc).TargetAligned := by
  cases taken
  exacts [add_four_mod_four h, branchTarget_mod_four h offset]

/-- An instruction that copies no value into `pc` goes to a multiple of 4 (R26). -/
theorem effectOf_targetAligned {i : Instr} {s : State} (hp : s.pc.toNat % 4 = 0) (hc : copiesPc i = false) :
    (effectOf i s).TargetAligned := by
  cases i with
  | add | sub | addi => exact Effect.regOrOverflow_induction trivial trivial
  | lh | lhu | lw | sh | sw => exact Effect.onAligned_induction trivial fun _ => trivial
  | beq | bne | blez | bgtz | bltz | bgez => exact Effect.branch_targetAligned hp _ _
  | j | jal => exact jumpAddr_mod_four _ _
  | jr | jalr | eret => cases hc
  | _ => trivial

/-! ### What an instruction reads -/

/-- Two states agree in all that an instruction reads to choose its effect: its sources among the general registers
(R23), `pc`, HI for MFHI and LO for MFLO (R27), the data memory for the loads (R50), one CP0 cell for MFC0 and EPC for
ERET (R29). -/
structure ReadsSame (i : Instr) (s u : State) : Prop where
  regs : ∀ r ∈ sourceRegs i, u.readReg r = s.readReg r
  pc : u.pc = s.pc
  hi : ∀ rd, i = .mfhi rd → u.hi = s.hi
  lo : ∀ rd, i = .mflo rd → u.lo = s.lo
  data : readsData i = true → ∀ a, u.dataByte a = s.dataByte a
  cp0 : ∀ rt rd, i = .mfc0 rt rd → u.readCp0 rd = s.readCp0 rd
  epc : i = .eret → u.epc = s.epc

/-- An instruction's effect depends on nothing but what it reads. -/
theorem effectOf_congr {i : Instr} {s u : State} (h : ReadsSame i s u) : effectOf i u = effectOf i s := by
  obtain ⟨hr, hpc, hhi, hlo, hdata, hcp0, hepc⟩ := h
  cases i with
  | mfhi rd => simp only [effectOf, hhi rd rfl]
  | mflo rd => simp only [effectOf, hlo rd rfl]
  | mfc0 rt rd => simp only [effectOf, hcp0 rt rd rfl]
  | eret => simp only [effectOf, hepc rfl]
  | lb | lbu | lh | lhu | lw =>
    simp only [sourceRegs, List.mem_singleton, forall_eq] at hr
    simp only [effectOf, effAddr, State.readData8, State.readData16, State.readData32, hr, hdata rfl]
  | _ =>
    simp only [sourceRegs, List.mem_cons, List.not_mem_nil, or_false, forall_eq_or_imp, forall_eq] at hr
    simp only [effectOf, effAddr, varShamt, hr, hpc]

theorem readsSame_setHi {i : Instr} (s : State) (h : Word) (hi : ∀ rd, i ≠ .mfhi rd) : ReadsSame i s (s.setHi h) where
  regs _ _ := rfl
  pc := rfl
  hi rd e := absurd e (hi rd)
  lo _ _ := rfl
  data _ _ := rfl
  cp0 _ _ _ := rfl
  epc _ := rfl

theorem readsSame_setLo {i : Instr} (s : State) (l : Word) (hi : ∀ rd, i ≠ .mflo rd) : ReadsSame i s (s.setLo l) where
  regs _ _ := rfl
  pc := rfl
  hi _ _ := rfl
  lo rd e := absurd e (hi rd)
  data _ _ := rfl
  cp0 _ _ _ := rfl
  epc _ := rfl

theorem readsSame_with_gpr {i : Instr} (s : State) (g : Vector Word 31)
    (hr : ∀ r ∈ sourceRegs i, { s with gpr := g }.readReg r = s.readReg r) : ReadsSame i s { s with gpr := g } where
  regs := hr
  pc := rfl
  hi _ _ := rfl
  lo _ _ := rfl
  data _ _ := rfl
  cp0 _ _ _ := rfl
  epc _ := rfl

/-! ### The configuration and `pc` -/

theorem exec_cfg {i : Instr} {s t : State} (h : exec i s = .next t) : t.cfg = s.cfg := by
  obtain ⟨-, rfl⟩ := exec_next h
  exact Effect.update_cfg _ s

/-- Settles O48: every effect leaves the configuration, and a step is an instruction's effect. -/
theorem programTextNeverChanges : Obligations.ProgramTextNeverChanges := by
  refine ⟨fun s t h => ?_, fun i s t h => exec_cfg h⟩
  obtain ⟨i, -, hi⟩ := step_next h
  exact exec_cfg hi

/-- An aligned `pc` stays aligned if the effect's target and the exception vector are multiples of 4. -/
theorem Effect.update_pc_mod_four {e : Effect} {s : State} (hp : s.pc.toNat % 4 = 0)
    (hv : s.cfg.excVector.toNat % 4 = 0) (he : e.TargetAligned) : (e.update s).pc.toNat % 4 = 0 := by
  cases e with
  | jump | link | ret => exact he
  | raise => exact hv
  | load =>
    simp only [Effect.update, State.advance_pc, State.writeReg_pc, State.afterRead_pc]
    exact add_four_mod_four hp
  | _ => exact add_four_mod_four hp

/-- Settles O53: the targets of branches, J and JAL are multiples of 4, and so is the exception vector. -/
theorem pcStaysAlignedUnlessCopied : Obligations.PcStaysAlignedUnlessCopied := by
  intro i s t hp hv hc h
  obtain ⟨-, rfl⟩ := exec_next h
  exact Effect.update_pc_mod_four hp hv (effectOf_targetAligned hp hc)

/-! ### The invariant -/

/-- `DMEM` is made of words: addresses of one word are mapped together. -/
theorem mapsData_of_same_word (cfg : Config) {a b : Word} (h : a.toNat / 4 = b.toNat / 4) :
    cfg.mapsData a = cfg.mapsData b := by
  have hw : containingWord a = containingWord b :=
    BitVec.eq_of_toNat_eq (by rw [containingWord_toNat, containingWord_toNat, h])
  rw [Config.mapsData, Config.mapsData, hw]

/-- Bytes stored inside one mapped word keep the data inside `DMEM`. -/
theorem dataMapped_writeBytes {s : State} {addr : Word} {bytes : List Byte} (hm : s.cfg.mapsData addr = true)
    (hw : addr.toNat % 4 + bytes.length ≤ 4) (hd : DataMapped s) :
    DataMapped (s.setDmem (Memory.writeBytes s.dmem addr.toNat bytes)) := by
  intro c hc
  obtain ⟨hlo, hhi⟩ | hold := Memory.mem_writeBytes bytes s.dmem addr.toNat c hc
  · have ha := addr.isLt
    have hlt : c.1 < 4294967296 := by omega
    have hn : (BitVec.ofNat 32 c.1).toNat = c.1 := Nat.mod_eq_of_lt hlt
    have hword : (BitVec.ofNat 32 c.1).toNat / 4 = addr.toNat / 4 := by omega
    exact ⟨hlt, (mapsData_of_same_word s.cfg hword).trans hm⟩
  · exact hd c hold

/-- The invariant is about the configuration and the data memory only. -/
theorem Inv.congr {s t : State} (hi : Inv s) (hc : t.cfg = s.cfg) (hd : t.dmem = s.dmem) : Inv t := by
  unfold Inv DataMapped
  rw [hc, hd]
  exact hi

/-- An effect without a fault, its stores inside a word, keeps the invariant. -/
theorem Effect.inv_update {e : Effect} {s : State} (hf : e.fault s.cfg = none) (hw : e.InWord) (hi : Inv s) :
    Inv (e.update s) := by
  cases e with
  | store addr bytes =>
    obtain ⟨hwf, htext, hdata⟩ := hi
    have hm : s.cfg.mapsData addr = true := by simpa [Effect.fault] using hf
    exact ⟨Memory.wf_writeBytes bytes _ _ hwf, htext, dataMapped_writeBytes hm hw hdata⟩
  | _ => exact hi.congr (by simp) (by simp [Effect.update])

/-- Settles O47: a step is an instruction's effect, and a store's bytes lie in the mapped word of its address. -/
theorem everyStepKeepsTheInvariant : Obligations.EveryStepKeepsTheInvariant := by
  intro s t hs h
  obtain ⟨i, -, hi⟩ := step_next h
  obtain ⟨hf, rfl⟩ := exec_next hi
  exact Effect.inv_update hf (effectOf_inWord i s) hs

theorem inv_of_dmem_nil {s : State} (hd : s.dmem = []) (ht : Memory.wf s.cfg.imem = true) : Inv s := by
  unfold Inv DataMapped
  simp [hd, ht, Memory.wf]

/-- Settles O45: reset leaves no data, and the text is the configuration's. -/
theorem invariantHoldsAtReset : Obligations.InvariantHoldsAtReset := by
  refine ⟨fun cfg s ht ⟨hc, _, hd⟩ => ?_, inv_of_dmem_nil rfl rfl⟩
  subst hc
  exact inv_of_dmem_nil hd ht

/-! ### The general registers -/

/-- An instruction writes no general register but the destination that R23 lists. -/
theorem exec_readReg_other {i : Instr} {s t : State} (h : exec i s = .next t) {r : Reg} (hr : destReg i ≠ some r) :
    t.readReg r = s.readReg r := by
  obtain ⟨-, rfl⟩ := exec_next h
  refine Effect.update_readReg_other s ?_
  obtain hd | hd := effectOf_dest i s <;> rw [hd]
  exacts [nofun, hr]

/-- One effect in two states: each register gets the same value in both, or keeps what it held in each. -/
theorem Effect.update_readReg_same_or_kept (e : Effect) (s u : State) (r : Reg) :
    (e.update u).readReg r = (e.update s).readReg r ∨
      ((e.update s).readReg r = s.readReg r ∧ (e.update u).readReg r = u.readReg r) := by
  by_cases hd : e.dest = some r
  · exact .inl (Effect.update_readReg_dest s u hd)
  · exact .inr ⟨Effect.update_readReg_other s hd, Effect.update_readReg_other u hd⟩

/-- Settles O49: with equal sources an instruction chooses one effect, which writes one register at most. -/
theorem registersReadAndWrittenAsListed : Obligations.RegistersReadAndWrittenAsListed := by
  refine ⟨fun i s t h r hr => exec_readReg_other h hr, fun i s u hu hr => ?_⟩
  obtain ⟨g, rfl⟩ : ∃ g, u = { s with gpr := g } := ⟨u.gpr, hu⟩
  have he : effectOf i { s with gpr := g } = effectOf i s := effectOf_congr (readsSame_with_gpr s g hr)
  constructor
  · rw [exec_eq_apply i s, exec_eq_apply i { s with gpr := g }, he]
    exact Effect.agreeBut_apply rfl (Effect.update_with_gpr _ s g)
  · intro s' u' hs' hu' r
    obtain ⟨-, rfl⟩ := exec_next hs'
    obtain ⟨-, rfl⟩ := exec_next hu'
    rw [he]
    exact Effect.update_readReg_same_or_kept _ s _ r

/-! ### HI and LO -/

/-- Another HI beforehand: the same effect, for every instruction but MFHI. -/
theorem exec_setHi {i : Instr} (hi : ∀ rd, i ≠ .mfhi rd) (s : State) (h : Word) :
    exec i (s.setHi h) = (effectOf i s).apply (s.setHi h) := by
  rw [exec_eq_apply, effectOf_congr (readsSame_setHi s h hi)]

/-- Another LO beforehand: the same effect, for every instruction but MFLO. -/
theorem exec_setLo {i : Instr} (hi : ∀ rd, i ≠ .mflo rd) (s : State) (l : Word) :
    exec i (s.setLo l) = (effectOf i s).apply (s.setLo l) := by
  rw [exec_eq_apply, effectOf_congr (readsSame_setLo s l hi)]

theorem Effect.agreeButHi_apply (e : Effect) (s : State) (h : Word) :
    AgreeButHi (e.apply s) (e.apply (s.setHi h)) := by
  refine Effect.agreeBut_apply rfl ?_
  rw [Effect.update_setHi]
  split <;> rfl

theorem Effect.agreeButLo_apply (e : Effect) (s : State) (l : Word) :
    AgreeButLo (e.apply s) (e.apply (s.setLo l)) := by
  refine Effect.agreeBut_apply rfl ?_
  rw [Effect.update_setLo]
  split <;> rfl

/-- An effect that writes HI has the same outcome whatever HI held. -/
theorem Effect.apply_setHi {e : Effect} (he : e.writesHi = true) (s : State) (h : Word) :
    e.apply (s.setHi h) = e.apply s := by
  rw [Effect.apply, Effect.apply, Effect.update_setHi, if_pos he, State.setHi_cfg]

/-- An effect that writes LO has the same outcome whatever LO held. -/
theorem Effect.apply_setLo {e : Effect} (he : e.writesLo = true) (s : State) (l : Word) :
    e.apply (s.setLo l) = e.apply s := by
  rw [Effect.apply, Effect.apply, Effect.update_setLo, if_pos he, State.setLo_cfg]

theorem exec_hi_lo {i : Instr} {s t : State} (h : exec i s = .next t) :
    (writesHi i = false → t.hi = s.hi) ∧ (writesLo i = false → t.lo = s.lo) := by
  obtain ⟨-, rfl⟩ := exec_next h
  rw [← effectOf_writesHi i s, ← effectOf_writesLo i s]
  exact ⟨Effect.update_hi s, Effect.update_lo s⟩

theorem execMthi_completes (rs : Reg) (s : State) : Completes (.mthi rs) s (WritesHiLo (s.readReg rs) s.lo s) :=
  finishHiLo_spec (s.readReg rs) s.lo s

theorem execMtlo_completes (rs : Reg) (s : State) : Completes (.mtlo rs) s (WritesHiLo s.hi (s.readReg rs) s) :=
  finishHiLo_spec s.hi (s.readReg rs) s

theorem execMfhi_completes (rd : Reg) (s : State) : Completes (.mfhi rd) s (WritesReg rd s.hi s) :=
  finishReg_spec rd s.hi s

theorem execMflo_completes (rd : Reg) (s : State) : Completes (.mflo rd) s (WritesReg rd s.lo s) :=
  finishReg_spec rd s.lo s

/-- Settles O50: but for MFHI and MFLO the effect is chosen without HI and LO, and it replaces them or leaves them. -/
theorem hiAndLoReadAndWrittenAsListed : Obligations.HiAndLoReadAndWrittenAsListed := by
  refine ⟨fun i s t h => exec_hi_lo h, fun i s h hi => ?_, fun i s l hi => ?_,
    fun rs s => ⟨execMthi_completes rs s, execMtlo_completes rs s⟩,
    fun rd s _ => ⟨execMfhi_completes rd s, execMflo_completes rd s⟩⟩
  · rw [exec_setHi hi, exec_eq_apply i s, ← effectOf_writesHi i s]
    exact ⟨Effect.agreeButHi_apply _ s h, fun he => Effect.apply_setHi he s h⟩
  · rw [exec_setLo hi, exec_eq_apply i s, ← effectOf_writesLo i s]
    exact ⟨Effect.agreeButLo_apply _ s l, fun he => Effect.apply_setLo he s l⟩

end Sys2Proof.Machine
end

section
/-! PROOFS of the family 20_memory.md. What reaches the data memory is told by the effect that an instruction chooses:
only a store's has bytes to write, only a load's looks at the memory (R50). The accesses of each width are then read in
the word view (R51 to R56): a bit of a word is a bit of one of its four bytes, and a store replaces bytes. -/

namespace Sys2Proof.Machine

/-! ### What an effect does to the data memory (R50) -/

/-- The bytes that an effect stores, with their first address, if it stores any. -/
def Effect.stored : Effect → Option (Word × List Byte)
  | .store addr bytes => some (addr, bytes)
  | _ => none

/-- The effects that depend on which data bytes have been written (R35). -/
def Effect.isLoad : Effect → Bool
  | .load _ _ _ _ => true
  | _ => false

/-- The data memory after an effect: the stored bytes written to it, if there are any. -/
theorem Effect.update_dmem (e : Effect) (s : State) :
    (e.update s).dmem =
      e.stored.elim s.dmem fun span => Memory.writeBytes s.dmem span.1.toNat span.2 := by
  cases e with
  | store => rfl
  | _ => simp [Effect.update, Effect.stored]

/-- A byte outside the stored span keeps what it held. -/
theorem Effect.update_read_outside {e : Effect} {a : Nat} (s : State)
    (h : ∀ addr bytes, e.stored = some (addr, bytes) → a < addr.toNat ∨ addr.toNat + bytes.length ≤ a) :
    Memory.read (e.update s).dmem a = Memory.read s.dmem a := by
  rw [Effect.update_dmem]
  cases hs : e.stored with
  | none => rfl
  | some span =>
    have hout := h _ _ hs
    exact (Memory.read_writeBytes ..).trans (if_neg (by omega))

/-- One effect on two data memories: each byte gets the same value in both, or keeps what it held in each. -/
theorem Effect.update_read_same_or_kept (e : Effect) (s u : State) (a : Nat) :
    Memory.read (e.update u).dmem a = Memory.read (e.update s).dmem a ∨
      (Memory.read (e.update u).dmem a = Memory.read u.dmem a ∧
        Memory.read (e.update s).dmem a = Memory.read s.dmem a) := by
  simp only [Effect.update_dmem]
  cases e.stored with
  | none => exact .inr ⟨rfl, rfl⟩
  | some span =>
    simp only [Option.elim_some, Memory.read_writeBytes]
    split
    exacts [.inl rfl, .inr ⟨rfl, rfl⟩]

/-- Apart from the data memory, the update by anything but a load does not depend on it. -/
theorem Effect.update_setDmem {e : Effect} (h : e.isLoad = false) (s : State) (m : Memory) :
    (e.update (s.setDmem m)).setDmem (e.update s).dmem = e.update s := by
  cases e with
  | load => cases h
  | _ => rfl

/-- The effects that store are those of the stores, at the effective address and of the store's size (R50, R66). -/
theorem effectOf_stored {i : Instr} {s : State} {addr : Word} {bytes : List Byte}
    (h : (effectOf i s).stored = some (addr, bytes)) :
    ∃ base offset, storeSpan i = some (base, offset, bytes.length) ∧ addr = effAddr base offset s := by
  cases i with
  | add | sub | addi =>
    exact absurd h (Effect.regOrOverflow_induction (P := fun e => ¬ e.stored = some (addr, bytes)) nofun nofun)
  | lh | lhu | lw =>
    exact absurd h (Effect.onAligned_induction (P := fun e => ¬ e.stored = some (addr, bytes)) nofun nofun)
  | sb rt offset base =>
    cases h
    exact ⟨base, offset, rfl, rfl⟩
  | sh rt offset base | sw rt offset base =>
    revert h
    refine Effect.onAligned_induction (P := fun e => e.stored = some (addr, bytes) → _) nofun fun _ h => ?_
    cases h
    exact ⟨base, offset, rfl, rfl⟩
  | _ => cases h

theorem effectOf_stored_none {i : Instr} (hi : accessesData i = false) (s : State) :
    (effectOf i s).stored = none := by
  cases hs : (effectOf i s).stored with
  | none => rfl
  | some span =>
    obtain ⟨base, offset, hspan, -⟩ := effectOf_stored hs
    cases i with
    | sb | sh | sw => cases hi
    | _ => cases hspan

/-- Only a load chooses the effect of a load (R50). -/
theorem effectOf_isLoad {i : Instr} (hi : readsData i = false) (s : State) : (effectOf i s).isLoad = false := by
  cases i with
  | add | sub | addi => exact Effect.regOrOverflow_induction (P := fun e => e.isLoad = false) rfl rfl
  | sh | sw => exact Effect.onAligned_induction (P := fun e => e.isLoad = false) rfl fun _ => rfl
  | lb | lbu | lh | lhu | lw => cases hi
  | _ => rfl

theorem readsSame_setDmem {i : Instr} (s : State) (m : Memory) (hi : readsData i = false) :
    ReadsSame i s (s.setDmem m) where
  regs _ _ := rfl
  pc := rfl
  hi _ _ := rfl
  lo _ _ := rfl
  data hd := absurd (hd.symm.trans hi) nofun
  cp0 _ _ _ := rfl
  epc _ := rfl

/-- Another data memory beforehand: the same effect, for every instruction but a load. -/
theorem exec_setDmem {i : Instr} (hi : readsData i = false) (s : State) (m : Memory) :
    exec i (s.setDmem m) = (effectOf i s).apply (s.setDmem m) := by
  rw [exec_eq_apply, effectOf_congr (readsSame_setDmem s m hi)]

/-- No instruction changes a data byte outside the span that it stores (R50). -/
theorem exec_read_outside {i : Instr} {s t : State} (h : exec i s = .next t) {a : Nat}
    (ha : ∀ base offset n, storeSpan i = some (base, offset, n) →
      a < (effAddr base offset s).toNat ∨ (effAddr base offset s).toNat + n ≤ a) :
    Memory.read t.dmem a = Memory.read s.dmem a := by
  obtain ⟨-, rfl⟩ := exec_next h
  refine Effect.update_read_outside s fun addr bytes hs => ?_
  obtain ⟨base, offset, hspan, rfl⟩ := effectOf_stored hs
  exact ha base offset bytes.length hspan

/-- Settles O51: an instruction that is no load chooses its effect without the data memory, and an effect writes its
stored bytes there and leaves all others. -/
theorem memoryReachedByLoadsAndStoresOnly : Obligations.MemoryReachedByLoadsAndStoresOnly := by
  refine ⟨fun i s t h a ha => exec_read_outside h ha, fun i s m hi => ?_⟩
  rw [exec_setDmem hi, exec_eq_apply i s]
  refine ⟨Effect.agreeBut_apply rfl (Effect.update_setDmem (effectOf_isLoad hi s) s m), fun t ht => ?_⟩
  obtain ⟨-, rfl⟩ := Effect.apply_next_iff.1 ht
  refine ⟨fun hd => ?_, fun u hu a => ?_⟩
  · rw [Effect.update_dmem, effectOf_stored_none hd]
    rfl
  · obtain ⟨-, rfl⟩ := Effect.apply_next_iff.1 hu
    exact Effect.update_read_same_or_kept _ s (s.setDmem m) a

/-! ### Fetch failures (R60, R96, R233) -/

theorem step_of_fetchDecode_error {s : State} {f : Fault} (h : fetchDecode s = .error f) : step s = .fault f := by
  rw [step, h]

/-- A word is not fetched if one of its four bytes is not in the text (R60). -/
theorem textBytes_eq_none {imem : Memory} {a : Nat} (h : ∃ k < 4, Memory.read imem (a + k) = none) :
    textBytes imem a = none := by
  obtain ⟨k, hk, hnone⟩ := h
  refine Option.not_isSome_iff_eq_none.1 fun hsome => ?_
  exact (textBytes_isSome_iff imem a).1 hsome k hk hnone

/-- At an aligned pc that holds the bytes of a word which decodes to nothing, the failure names pc and the word. -/
theorem fetchDecode_illegal {s : State} {w : Word} (ha : s.pc.toNat % 4 = 0)
    (hb : ∀ k < 4, Memory.read s.cfg.imem (s.pc.toNat + k) = some (w.extractLsb' (8 * k) 8))
    (hd : ∀ i, decodeWord w ≠ .ok i) : fetchDecode s = .error (.illegalInstruction s.pc w) := by
  rw [fetchDecode_word s _ _ _ _ ha (textBytes_of_word_bytes hb), wordOfBytes_bytesOfWord]
  cases hw : decodeWord w with
  | ok i => exact absurd hw (hd i)
  | reject r => rfl

/-- Settles O43: the three failures of fetch and decode, each a fault of the step. -/
theorem fetchFailuresFaultInOrder : Obligations.FetchFailuresFaultInOrder := fun s =>
  ⟨fun ha => step_of_fetchDecode_error (fetchDecode_misaligned s ha),
    fun ha hm => step_of_fetchDecode_error (fetchDecode_unmapped s ha (textBytes_eq_none hm)),
    fun ha _ hb hd => step_of_fetchDecode_error (fetchDecode_illegal ha hb hd)⟩

/-! ### The launch (R59, R260, R263) -/

theorem textWhole_iff (cfg : Config) :
    cfg.textWhole = true ↔ ∀ c ∈ cfg.imem, c.1 < 4294967296 ∧
      ∀ k < 4, Memory.read cfg.imem (c.1 / 4 * 4 + k) ≠ none := by
  simp only [Config.textWhole, List.all_eq_true, Bool.and_eq_true, decide_eq_true_eq, textBytes_isSome_iff]

theorem dmemAligned_iff (cfg : Config) :
    cfg.dmemAligned = true ↔
      ∀ r ∈ cfg.dmemMap, r.base.toNat % 4 = 0 ∧ r.base.toNat + 4 * r.words ≤ 4294967296 := by
  simp only [Config.dmemAligned, List.all_eq_true, Bool.and_eq_true, decide_eq_true_eq, aligned4_iff]

theorem disjoint_iff (cfg : Config) :
    cfg.disjoint = true ↔ ∀ c ∈ cfg.imem, cfg.mapsData (BitVec.ofNat 32 c.1) = false := by
  simp only [Config.disjoint, List.all_eq_true, Bool.not_eq_true']

theorem dataInDmem_iff (cfg : Config) (m : Memory) :
    dataInDmem cfg m = true ↔
      Memory.wf m = true ∧ ∀ c ∈ m, c.1 < 4294967296 ∧ cfg.mapsData (BitVec.ofNat 32 c.1) = true := by
  simp only [dataInDmem, List.all_eq_true, Bool.and_eq_true, decide_eq_true_eq]

/-- The check that the launch makes is the list of its constraints. -/
theorem launchMeets_iff (cfg : Config) (v : LaunchValues) :
    (cfg.valid && dataInDmem cfg v.dmem) = true ↔ LaunchMeets cfg v := by
  simp only [Config.valid, LaunchMeets, Bool.and_eq_true, aligned4_iff, textWhole_iff, dmemAligned_iff, disjoint_iff,
    textBytes_isSome_iff, dataInDmem_iff, and_assoc]

/-- Settles O46: the launch makes its check first, and a launch that passes it starts with the values given. -/
theorem launchRefusesBadConfigurations : Obligations.LaunchRefusesBadConfigurations := by
  refine fun cfg v => ⟨fun h => ?_, fun h => if_neg (mt (launchMeets_iff cfg v).1 h)⟩
  have ⟨_, hpc, ⟨htext, _⟩, _, _, hfetch, hwf, hdata⟩ := h
  exact ⟨_, if_pos ((launchMeets_iff cfg v).2 h), rfl, rfl, rfl, rfl, rfl, rfl, rfl, ⟨hwf, htext, hdata⟩, hpc, hfetch⟩

/-! ### Words and their bytes (R51, R52, R55) -/

/-- A bit of a word in data memory is a bit of one of its bytes, the one at the lowest address holding bits 7..0. -/
theorem readData32_getLsbD (s : State) (addr : Word) {b : Nat} (hb : b < 32) :
    (s.readData32 addr).getLsbD b = (s.dataByte (addr.toNat + b / 8)).getLsbD (b % 8) := by
  rw [State.readData32, wordOfBytes]
  simp only [BitVec.getLsbD_append]
  split_ifs <;> congr 2 <;> omega

/-- The containing word in the same view: its first byte is at the multiple of 4 below the address (R51). -/
theorem memword_getLsbD (s : State) (addr : Word) {b : Nat} (hb : b < 32) :
    (memword s addr).getLsbD b = (s.dataByte (addr.toNat / 4 * 4 + b / 8)).getLsbD (b % 8) := by
  rw [memword, readData32_getLsbD s _ hb, containingWord_toNat]

/-- The byte at an address is its lane of the containing word (R52). -/
theorem readData8_eq_lane (s : State) (addr : Word) :
    s.readData8 addr = (memword s addr).extractLsb' (8 * (addr.toNat % 4)) 8 := by
  refine BitVec.eq_of_getLsbD_eq fun b hb => ?_
  rw [BitVec.getLsbD_extractLsb', memword_getLsbD _ _ (by omega), decide_eq_true hb, Bool.true_and, State.readData8]
  congr 2 <;> omega

/-- The halfword at an even address is its lane of the containing word (R52). -/
theorem readData16_eq_lane (s : State) {addr : Word} (ha : addr.toNat % 2 = 0) :
    s.readData16 addr = (memword s addr).extractLsb' (8 * (addr.toNat % 4)) 16 := by
  refine BitVec.eq_of_getLsbD_eq fun b hb => ?_
  rw [BitVec.getLsbD_extractLsb', memword_getLsbD _ _ (by omega), decide_eq_true hb, Bool.true_and, State.readData16,
    BitVec.getLsbD_append]
  split <;> congr 2 <;> omega

/-- The low bits of a sign-extended value are the value. -/
theorem extractLsb'_signExtend {n : Nat} (x : BitVec n) (h : n ≤ 32) : (x.signExtend 32).extractLsb' 0 n = x := by
  refine BitVec.eq_of_getLsbD_eq fun b hb => ?_
  simp [BitVec.getElem_signExtend, hb, show b < 32 by omega]

/-! ### Stores in the word view (R56) -/

theorem State.dataByte_of_read {s : State} {a : Nat} {b : Byte} (h : Memory.read s.dmem a = some b) :
    s.dataByte a = b := by
  rw [State.dataByte, h]

theorem State.dataByte_congr {s t : State} {a : Nat} (hr : Memory.read t.dmem a = Memory.read s.dmem a)
    (hd : t.draws = s.draws) : t.dataByte a = s.dataByte a := by
  rw [State.dataByte, State.dataByte, hr, hd]

/-- A data byte after a store: the stored byte inside the span, what it was outside. -/
theorem StoresBytes.dataByte {addr : Word} {n : Nat} {v : Word} {s t : State} (h : StoresBytes addr n v s t)
    (a : Nat) :
    t.dataByte a =
      if addr.toNat ≤ a ∧ a < addr.toNat + n then v.extractLsb' (8 * (a - addr.toNat)) 8 else s.dataByte a := by
  obtain ⟨hin, hout, -, -, -, -, -, hdraws⟩ := h
  split
  next hspan =>
    have hread := hin (a - addr.toNat) (by omega)
    rw [show addr.toNat + (a - addr.toNat) = a by omega] at hread
    exact State.dataByte_of_read hread
  next hspan => exact State.dataByte_congr (hout a (by omega)) hdraws

/-- A bit of the containing word after a store: the corresponding bit of the value in the stored lanes, what it was
elsewhere (R56). -/
theorem StoresBytes.memword_getLsbD {addr : Word} {n : Nat} {v : Word} {s t : State} (h : StoresBytes addr n v s t)
    {b : Nat} (hb : b < 32) :
    (memword t addr).getLsbD b =
      if 8 * (addr.toNat % 4) ≤ b ∧ b < 8 * (addr.toNat % 4) + 8 * n then v.getLsbD (b - 8 * (addr.toNat % 4))
      else (memword s addr).getLsbD b := by
  have hlane : (addr.toNat ≤ addr.toNat / 4 * 4 + b / 8 ∧ addr.toNat / 4 * 4 + b / 8 < addr.toNat + n) ↔
      (8 * (addr.toNat % 4) ≤ b ∧ b < 8 * (addr.toNat % 4) + 8 * n) := by omega
  rw [Machine.memword_getLsbD t addr hb, Machine.memword_getLsbD s addr hb, h.dataByte]
  simp only [hlane]
  split
  next hin =>
    rw [BitVec.getLsbD_extractLsb', decide_eq_true (Nat.mod_lt b (by decide)), Bool.true_and]
    congr 1
    omega
  next => rfl

/-- A store inside one word leaves every other word as it was (R56). -/
theorem StoresBytes.memword_other {addr other : Word} {n : Nat} {v : Word} {s t : State}
    (h : StoresBytes addr n v s t) (hn : addr.toNat % 4 + n ≤ 4) (ho : containingWord other ≠ containingWord addr) :
    memword t other = memword s other := by
  have hword : other.toNat / 4 * 4 ≠ addr.toNat / 4 * 4 := by
    rw [← containingWord_toNat, ← containingWord_toNat]
    exact mt BitVec.eq_of_toNat_eq ho
  refine BitVec.eq_of_getLsbD_eq fun b hb => ?_
  rw [Machine.memword_getLsbD t other hb, Machine.memword_getLsbD s other hb, h.dataByte, if_neg (by omega)]

/-- A store inside one word puts the value's low bytes in their lanes (R52). -/
theorem StoresBytes.memword_lanes {addr : Word} {n : Nat} {v : Word} {s t : State} (h : StoresBytes addr n v s t)
    (hn : addr.toNat % 4 + n ≤ 4) :
    (memword t addr).extractLsb' (8 * (addr.toNat % 4)) (8 * n) = v.extractLsb' 0 (8 * n) := by
  refine BitVec.eq_of_getLsbD_eq fun b hb => ?_
  rw [BitVec.getLsbD_extractLsb', BitVec.getLsbD_extractLsb', h.memword_getLsbD (by omega), if_pos (by omega)]
  congr 2
  omega

section
variable {i : Instr} {rt base : Reg} {offset : Half} {n : Nat} {s : State}
  (hi : i = .sb rt offset base ∧ n = 1 ∨ i = .sh rt offset base ∧ n = 2 ∨ i = .sw rt offset base ∧ n = 4)
  (ha : (effAddr base offset s).toNat % n = 0)
include hi ha

/-- SB, SH and SW at a multiple of their size `n` store the `n` low bytes of `x[rt]` at the effective address. -/
theorem exec_store :
    ∃ bytes : List Byte, exec i s = finishStore (effAddr base offset s) bytes s ∧ bytes.length = n ∧
      ∀ k < n, bytes[k]? = some ((s.readReg rt).extractLsb' (8 * k) 8) := by
  obtain ⟨rfl, rfl⟩ | ⟨rfl, rfl⟩ | ⟨rfl, rfl⟩ := hi
  · refine ⟨[byteOfWord (s.readReg rt) 0], rfl, rfl, fun k hk => ?_⟩
    interval_cases k
    rfl
  · refine ⟨[byteOfWord (s.readReg rt) 0, byteOfWord (s.readReg rt) 1], ?_, rfl, fun k hk => ?_⟩
    · exact if_pos ((aligned2_iff _).2 ha)
    · interval_cases k <;> rfl
  · refine ⟨bytesOfWord (s.readReg rt), ?_, rfl, fun k hk => ?_⟩
    · exact if_pos ((aligned4_iff _).2 ha)
    · interval_cases k <;> rfl

/-- An aligned store to mapped memory completes (R56). -/
theorem exec_store_mapped (hm : s.cfg.mapsData (effAddr base offset s) = true) :
    Completes i s (StoresBytes (effAddr base offset s) n (s.readReg rt) s) := by
  obtain ⟨bytes, he, hlen, hbytes⟩ := exec_store hi ha
  rw [Completes, he]
  exact finishStore_mapped _ bytes n _ s hm hlen hbytes

/-- An aligned store outside `DMEM` is the model fault (R59). -/
theorem exec_store_unmapped (hm : s.cfg.mapsData (effAddr base offset s) = false) :
    exec i s = .fault (.unmappedAccess (effAddr base offset s)) := by
  obtain ⟨bytes, he, -, -⟩ := exec_store hi ha
  rw [he, finishStore_unmapped _ _ _ hm]

end

/-- An instruction that completes with `P` completes with what follows from `P`. -/
theorem Completes.mono {i : Instr} {s : State} {P Q : State → Prop} (h : Completes i s P) (hpq : ∀ t, P t → Q t) :
    Completes i s Q := by
  obtain ⟨t, ht, hp⟩ := h
  exact ⟨t, ht, hpq t hp⟩

/-- Settles O54: an aligned store writes bytes inside one word, and a word's bits are its bytes' bits. -/
theorem wordViewOfStores : Obligations.WordViewOfStores := by
  intro i rt base offset n s hi ha addr k
  split
  next hm =>
    have hword : addr.toNat % 4 + n ≤ 4 := by
      have ha' : addr.toNat % n = 0 := ha
      obtain ⟨-, rfl⟩ | ⟨-, rfl⟩ | ⟨-, rfl⟩ := hi <;> omega
    exact (exec_store_mapped hi ha hm).mono fun t ht =>
      ⟨fun b hb => ht.memword_getLsbD hb, fun other ho => ht.memword_other hword ho⟩
  next hm => exact exec_store_unmapped hi ha (Bool.eq_false_of_not_eq_true hm)

/-! ### Loads of mapped memory (R55) -/

/-- A load of mapped memory that passes its check of alignment completes. -/
theorem ifAligned_finishLoad_mapped {aligned : Bool} {addr : Word} {s : State} (ha : aligned = true)
    (hm : s.cfg.mapsData addr = true) (rt : Reg) (n : Nat) (v : Word) :
    ∃ t, ifAligned aligned .load addr (finishLoad rt addr n v s) s = .next t ∧ Loads rt addr n v s t := by
  rw [ifAligned, if_pos ha]
  exact finishLoad_mapped rt addr n v s hm

section
variable {base : Reg} {offset : Half} {s : State}

theorem execLb_mapped (hm : s.cfg.mapsData (effAddr base offset s) = true) (rt : Reg) :
    Completes (.lb rt offset base) s
      (Loads rt (effAddr base offset s) 1 ((s.readData8 (effAddr base offset s)).signExtend 32) s) :=
  finishLoad_mapped rt _ 1 _ s hm

theorem execLbu_mapped (hm : s.cfg.mapsData (effAddr base offset s) = true) (rt : Reg) :
    Completes (.lbu rt offset base) s
      (Loads rt (effAddr base offset s) 1 ((s.readData8 (effAddr base offset s)).zeroExtend 32) s) :=
  finishLoad_mapped rt _ 1 _ s hm

theorem execLh_mapped (ha : (effAddr base offset s).toNat % 2 = 0)
    (hm : s.cfg.mapsData (effAddr base offset s) = true) (rt : Reg) :
    Completes (.lh rt offset base) s
      (Loads rt (effAddr base offset s) 2 ((s.readData16 (effAddr base offset s)).signExtend 32) s) :=
  ifAligned_finishLoad_mapped ((aligned2_iff _).2 ha) hm rt 2 _

theorem execLhu_mapped (ha : (effAddr base offset s).toNat % 2 = 0)
    (hm : s.cfg.mapsData (effAddr base offset s) = true) (rt : Reg) :
    Completes (.lhu rt offset base) s
      (Loads rt (effAddr base offset s) 2 ((s.readData16 (effAddr base offset s)).zeroExtend 32) s) :=
  ifAligned_finishLoad_mapped ((aligned2_iff _).2 ha) hm rt 2 _

theorem execLw_mapped (ha : (effAddr base offset s).toNat % 4 = 0)
    (hm : s.cfg.mapsData (effAddr base offset s) = true) (rt : Reg) :
    Completes (.lw rt offset base) s
      (Loads rt (effAddr base offset s) 4 (s.readData32 (effAddr base offset s)) s) :=
  ifAligned_finishLoad_mapped ((aligned4_iff _).2 ha) hm rt 4 _

end

/-- A destination other than `x[0]` shows the loaded value. -/
theorem Loads.readReg {rt : Reg} {addr : Word} {n : Nat} {v : Word} {s t : State} (h : Loads rt addr n v s t)
    (hrt : rt ≠ 0#5) : t.readReg rt = v := by
  obtain ⟨hv, -⟩ := h
  rw [hv, if_neg hrt]

/-! ### Narrow and wide accesses to one word (R53) -/

/-- The base register holds the address of a mapped word, and `v` stands there. -/
structure WordAt (base : Reg) (v : Word) (t : State) : Prop where
  aligned : (t.readReg base).toNat % 4 = 0
  mapped : t.cfg.mapsData (t.readReg base) = true
  word : memword t (t.readReg base) = v

theorem memword_of_same_word (s : State) {a b : Word} (h : a.toNat / 4 = b.toNat / 4) :
    memword s a = memword s b := by
  have hw : containingWord a = containingWord b :=
    BitVec.eq_of_toNat_eq (by rw [containingWord_toNat, containingWord_toNat, h])
  rw [memword, memword, hw]

theorem readData32_eq_memword (s : State) {addr : Word} (ha : addr.toNat % 4 = 0) :
    s.readData32 addr = memword s addr := by
  have hw : containingWord addr = addr := BitVec.eq_of_toNat_eq (by rw [containingWord_toNat]; omega)
  rw [memword, hw]

/-- A lane, zero-extended, as a number. -/
theorem toNat_zeroExtend_lane (v : Word) (start : Nat) {n : Nat} (hn : n ≤ 32) :
    ((v.extractLsb' start n).zeroExtend 32).toNat = v.toNat / 2 ^ start % 2 ^ n := by
  rw [BitVec.zeroExtend, BitVec.toNat_setWidth_of_le hn, BitVec.extractLsb'_toNat, Nat.shiftRight_eq_div_pow]

section
variable {base : Reg} {v : Word} {t : State} {k : Nat}

/-- Offsets 0 to 3 from a word's address do not wrap. -/
theorem WordAt.effAddr_toNat (h : WordAt base v t) (hk : k < 4) :
    (effAddr base (BitVec.ofNat 16 k) t).toNat = (t.readReg base).toNat + k := by
  have hext : signExtImm (BitVec.ofNat 16 k) = BitVec.ofNat 32 k := by interval_cases k <;> rfl
  have halign := h.aligned
  rw [effAddr, hext, BitVec.toNat_add, BitVec.toNat_ofNat]
  omega

theorem WordAt.effAddr_same_word (h : WordAt base v t) (hk : k < 4) :
    (effAddr base (BitVec.ofNat 16 k) t).toNat / 4 = (t.readReg base).toNat / 4 := by
  have halign := h.aligned
  rw [h.effAddr_toNat hk]
  omega

theorem WordAt.effAddr_mod_four (h : WordAt base v t) (hk : k < 4) :
    (effAddr base (BitVec.ofNat 16 k) t).toNat % 4 = k := by
  have halign := h.aligned
  rw [h.effAddr_toNat hk]
  omega

theorem WordAt.effAddr_mapped (h : WordAt base v t) (hk : k < 4) :
    t.cfg.mapsData (effAddr base (BitVec.ofNat 16 k) t) = true :=
  (mapsData_of_same_word t.cfg (h.effAddr_same_word hk)).trans h.mapped

theorem WordAt.effAddr_memword (h : WordAt base v t) (hk : k < 4) :
    memword t (effAddr base (BitVec.ofNat 16 k) t) = v :=
  (memword_of_same_word t (h.effAddr_same_word hk)).trans h.word

/-- LBU at offsets 0 to 3 gives the four bytes of the word. -/
theorem WordAt.lbu (h : WordAt base v t) (hk : k < 4) {rt : Reg} (hrt : rt ≠ 0#5) :
    Completes (.lbu rt (BitVec.ofNat 16 k) base) t fun u =>
      (u.readReg rt).toNat = v.toNat / 2 ^ (8 * k) % 256 := by
  refine (execLbu_mapped (h.effAddr_mapped hk) rt).mono fun u hu => ?_
  rw [hu.readReg hrt, readData8_eq_lane, h.effAddr_memword hk, h.effAddr_mod_four hk]
  exact toNat_zeroExtend_lane v (8 * k) (by decide)

/-- LHU at offsets 0 and 2 gives the two halves of the word. -/
theorem WordAt.lhu (h : WordAt base v t) (hk : k < 2) {rt : Reg} (hrt : rt ≠ 0#5) :
    Completes (.lhu rt (BitVec.ofNat 16 (2 * k)) base) t fun u =>
      (u.readReg rt).toNat = v.toNat / 2 ^ (16 * k) % 65536 := by
  have hk' : 2 * k < 4 := by omega
  have hmod := h.effAddr_mod_four hk'
  have heven : (effAddr base (BitVec.ofNat 16 (2 * k)) t).toNat % 2 = 0 := by omega
  refine (execLhu_mapped heven (h.effAddr_mapped hk') rt).mono fun u hu => ?_
  rw [hu.readReg hrt, readData16_eq_lane t heven, h.effAddr_memword hk', hmod, show 8 * (2 * k) = 16 * k by omega]
  exact toNat_zeroExtend_lane v (16 * k) (by decide)

/-- LW at offset 0 gives the word. -/
theorem WordAt.lw (h : WordAt base v t) {rt : Reg} (hrt : rt ≠ 0#5) :
    Completes (.lw rt 0#16 base) t fun u => u.readReg rt = v := by
  have hmod := h.effAddr_mod_four (k := 0) (by decide)
  refine (execLw_mapped hmod (h.effAddr_mapped (by decide)) rt).mono fun u hu => ?_
  rw [hu.readReg hrt, readData32_eq_memword t hmod]
  exact h.effAddr_memword (by decide)

/-- SB at offset `k` leaves the word with its byte `k` replaced. -/
theorem WordAt.sb (h : WordAt base v t) (hk : k < 4) (rt : Reg) :
    Completes (.sb rt (BitVec.ofNat 16 k) base) t fun u => ∃ w, WordAt base w u ∧ ∀ b < 32, w.getLsbD b =
      if 8 * k ≤ b ∧ b < 8 * k + 8 then (t.readReg rt).getLsbD (b - 8 * k) else v.getLsbD b := by
  refine (exec_store_mapped (.inl ⟨rfl, rfl⟩) (Nat.mod_one _) (h.effAddr_mapped hk)).mono fun u hu => ?_
  have hlanes := fun b hb => hu.memword_getLsbD (b := b) hb
  rw [h.effAddr_mod_four hk, h.effAddr_memword hk, memword_of_same_word u (h.effAddr_same_word hk)] at hlanes
  obtain ⟨-, -, -, hgpr, -, -, hcfg, -⟩ := hu
  exact ⟨_, ⟨by rw [hgpr]; exact h.aligned, by rw [hcfg, hgpr]; exact h.mapped, rfl⟩, by rw [hgpr]; exact hlanes⟩

end

/-- SW puts the whole of `x[rt]` at the word whose address the base register holds. -/
theorem sw_wordAt {base : Reg} {s : State} (ha : (s.readReg base).toNat % 4 = 0)
    (hm : s.cfg.mapsData (s.readReg base) = true) (rt : Reg) :
    Completes (.sw rt 0#16 base) s fun t => WordAt base (s.readReg rt) t ∧ SameGpr s t := by
  have hea : effAddr base 0#16 s = s.readReg base := BitVec.add_zero _
  refine (exec_store_mapped (.inr (.inr ⟨rfl, rfl⟩)) (hea.symm ▸ ha) (hea.symm ▸ hm)).mono fun t ht => ?_
  rw [hea] at ht
  have hword : memword t (s.readReg base) = s.readReg rt := by
    refine BitVec.eq_of_getLsbD_eq fun b hb => ?_
    rw [ht.memword_getLsbD hb, ha, if_pos (by omega)]
    rfl
  obtain ⟨-, -, -, hgpr, -, -, hcfg, -⟩ := ht
  exact ⟨⟨by rw [hgpr]; exact ha, by rw [hcfg, hgpr]; exact hm, by rw [hgpr]; exact hword⟩, hgpr⟩

/-- Settles O55: SW makes the word stand at the base register's address, SB replaces one of its lanes, and each load
gives the lanes of the word that stands there. -/
theorem mixedWidthAccessesSeeTheLanes : Obligations.MixedWidthAccessesSeeTheLanes := by
  intro base src byteSrc s ha hm
  refine (sw_wordAt ha hm src).mono fun t ⟨ht, hgpr⟩ =>
    ⟨fun k hk rt hrt => ht.lbu hk hrt, fun k hk rt hrt => ht.lhu hk hrt, fun k hk => ?_⟩
  refine (ht.sb hk byteSrc).mono fun u ⟨w, hu, hw⟩ rt hrt => (hu.lw hrt).mono fun x hx => ?_
  rw [hx, ← hgpr byteSrc]
  exact hw

/-! ### Byte order (R52) -/

theorem mod_four_of_low_bits {addr : Word} {k : Nat} (hk : k < 4) (h : addr.extractLsb' 0 2 = BitVec.ofNat 2 k) :
    addr.toNat % 4 = k := by
  have hnat := congrArg BitVec.toNat h
  rw [BitVec.extractLsb'_toNat, BitVec.toNat_ofNat] at hnat
  simpa [Nat.mod_eq_of_lt hk] using hnat

/-- Settles O59: an access reaches the lanes of the word that its address's low bits name, the lowest address the
lowest bits. -/
theorem byteOrderIsLittleEndian : Obligations.ByteOrderIsLittleEndian := by
  intro rt base offset s k addr hm
  refine ⟨fun hk hlow => ?_, fun hk hlow => ?_⟩
  · obtain rfl : addr.toNat % 4 = k := mod_four_of_low_bits hk hlow
    refine ⟨fun hrt => (execLb_mapped hm rt).mono fun t ht => ?_, ?_⟩
    · rw [ht.readReg hrt, extractLsb'_signExtend _ (by decide), readData8_eq_lane]
    · exact (exec_store_mapped (.inl ⟨rfl, rfl⟩) (Nat.mod_one _) hm).mono fun t ht => ht.memword_lanes (by omega)
  · have hmod : addr.toNat % 4 = 2 * k := mod_four_of_low_bits (by omega) hlow
    have heven : addr.toNat % 2 = 0 := by omega
    have hfit : addr.toNat % 4 + 2 ≤ 4 := by omega
    have hlane : 16 * k = 8 * (addr.toNat % 4) := by omega
    rw [hlane]
    refine ⟨fun hrt => (execLh_mapped heven hm rt).mono fun t ht => ?_, ?_⟩
    · rw [ht.readReg hrt, extractLsb'_signExtend _ (by decide), readData16_eq_lane s heven]
    · exact (exec_store_mapped (.inr (.inl ⟨rfl, rfl⟩)) heven hm).mono fun t ht => ht.memword_lanes hfit

end Sys2Proof.Machine
end

section
/-! PROOFS of the family 30_encoding.md. The decoder, the encoder and the opcode table are brought to one reading of a
word: it matches a mnemonic's row of the table, and its fields are the operands. A word decodes to an instruction
exactly when it reads so (`decodeWord_eq_ok_iff`), and is the instruction's encoding exactly when it reads so
(`encode_eq_iff`). The assembler (R98, R99) stands at the end. -/

namespace Sys2Proof.Machine

/-! ### The decoder and the opcode table (R93) -/

/-- The instruction of a mnemonic with its operands read from the fields of a word (R81 to R86). -/
def instrOf (m : Mnemonic) (w : Word) : Instr :=
  match m with
  | .sll => .sll (rdOf w) (rtOf w) (shamtOf w)
  | .srl => .srl (rdOf w) (rtOf w) (shamtOf w)
  | .sra => .sra (rdOf w) (rtOf w) (shamtOf w)
  | .sllv => .sllv (rdOf w) (rtOf w) (rsOf w)
  | .srlv => .srlv (rdOf w) (rtOf w) (rsOf w)
  | .srav => .srav (rdOf w) (rtOf w) (rsOf w)
  | .jr => .jr (rsOf w)
  | .jalr => .jalr (rdOf w) (rsOf w)
  | .syscall => .syscall (codeOf w)
  | .brk => .brk (codeOf w)
  | .mfhi => .mfhi (rdOf w)
  | .mthi => .mthi (rsOf w)
  | .mflo => .mflo (rdOf w)
  | .mtlo => .mtlo (rsOf w)
  | .mult => .mult (rsOf w) (rtOf w)
  | .multu => .multu (rsOf w) (rtOf w)
  | .div => .div (rsOf w) (rtOf w)
  | .divu => .divu (rsOf w) (rtOf w)
  | .add => .add (rdOf w) (rsOf w) (rtOf w)
  | .addu => .addu (rdOf w) (rsOf w) (rtOf w)
  | .sub => .sub (rdOf w) (rsOf w) (rtOf w)
  | .subu => .subu (rdOf w) (rsOf w) (rtOf w)
  | .and => .and (rdOf w) (rsOf w) (rtOf w)
  | .or => .or (rdOf w) (rsOf w) (rtOf w)
  | .xor => .xor (rdOf w) (rsOf w) (rtOf w)
  | .nor => .nor (rdOf w) (rsOf w) (rtOf w)
  | .slt => .slt (rdOf w) (rsOf w) (rtOf w)
  | .sltu => .sltu (rdOf w) (rsOf w) (rtOf w)
  | .bltz => .bltz (rsOf w) (immOf w)
  | .bgez => .bgez (rsOf w) (immOf w)
  | .j => .j (indexOf w)
  | .jal => .jal (indexOf w)
  | .beq => .beq (rsOf w) (rtOf w) (immOf w)
  | .bne => .bne (rsOf w) (rtOf w) (immOf w)
  | .blez => .blez (rsOf w) (immOf w)
  | .bgtz => .bgtz (rsOf w) (immOf w)
  | .addi => .addi (rtOf w) (rsOf w) (immOf w)
  | .addiu => .addiu (rtOf w) (rsOf w) (immOf w)
  | .slti => .slti (rtOf w) (rsOf w) (immOf w)
  | .sltiu => .sltiu (rtOf w) (rsOf w) (immOf w)
  | .andi => .andi (rtOf w) (rsOf w) (immOf w)
  | .ori => .ori (rtOf w) (rsOf w) (immOf w)
  | .xori => .xori (rtOf w) (rsOf w) (immOf w)
  | .lui => .lui (rtOf w) (immOf w)
  | .mfc0 => .mfc0 (rtOf w) (rdOf w)
  | .mtc0 => .mtc0 (rtOf w) (rdOf w)
  | .eret => .eret
  | .lb => .lb (rtOf w) (immOf w) (rsOf w)
  | .lh => .lh (rtOf w) (immOf w) (rsOf w)
  | .lw => .lw (rtOf w) (immOf w) (rsOf w)
  | .lbu => .lbu (rtOf w) (immOf w) (rsOf w)
  | .lhu => .lhu (rtOf w) (immOf w) (rsOf w)
  | .sb => .sb (rtOf w) (immOf w) (rsOf w)
  | .sh => .sh (rtOf w) (immOf w) (rsOf w)
  | .sw => .sw (rtOf w) (immOf w) (rsOf w)

theorem mnemonic_instrOf (m : Mnemonic) (w : Word) : (instrOf m w).mnemonic = m := by cases m <;> rfl

theorem mnemonic_rowOf (m : Mnemonic) : (rowOf m).mnemonic = m := by cases m <;> rfl

/-- The table has no second row for a mnemonic. -/
theorem eq_rowOf_of_mem {r : OpcodeRow} (h : r ∈ opcodeTable) : r = rowOf r.mnemonic := by
  revert r
  decide

theorem matchesWord_iff (r : OpcodeRow) (w : Word) : r.matchesWord w = true ↔ w &&& r.mask = r.pattern :=
  beq_iff_eq

/-- The laws of the 55 instructions as one, over the mnemonic. -/
theorem encodedAs_instrOf (m : Mnemonic) : EncodedAs (rowOf m).mask (rowOf m).pattern (instrOf m) :=
  match m with
  | .sll => encodedAs_sll
  | .srl => encodedAs_srl
  | .sra => encodedAs_sra
  | .sllv => encodedAs_sllv
  | .srlv => encodedAs_srlv
  | .srav => encodedAs_srav
  | .jr => encodedAs_jr
  | .jalr => encodedAs_jalr
  | .syscall => encodedAs_syscall
  | .brk => encodedAs_brk
  | .mfhi => encodedAs_mfhi
  | .mthi => encodedAs_mthi
  | .mflo => encodedAs_mflo
  | .mtlo => encodedAs_mtlo
  | .mult => encodedAs_mult
  | .multu => encodedAs_multu
  | .div => encodedAs_div
  | .divu => encodedAs_divu
  | .add => encodedAs_add
  | .addu => encodedAs_addu
  | .sub => encodedAs_sub
  | .subu => encodedAs_subu
  | .and => encodedAs_and
  | .or => encodedAs_or
  | .xor => encodedAs_xor
  | .nor => encodedAs_nor
  | .slt => encodedAs_slt
  | .sltu => encodedAs_sltu
  | .bltz => encodedAs_bltz
  | .bgez => encodedAs_bgez
  | .j => encodedAs_j
  | .jal => encodedAs_jal
  | .beq => encodedAs_beq
  | .bne => encodedAs_bne
  | .blez => encodedAs_blez
  | .bgtz => encodedAs_bgtz
  | .addi => encodedAs_addi
  | .addiu => encodedAs_addiu
  | .slti => encodedAs_slti
  | .sltiu => encodedAs_sltiu
  | .andi => encodedAs_andi
  | .ori => encodedAs_ori
  | .xori => encodedAs_xori
  | .lui => encodedAs_lui
  | .mfc0 => encodedAs_mfc0
  | .mtc0 => encodedAs_mtc0
  | .eret => encodedAs_eret
  | .lb => encodedAs_lb
  | .lh => encodedAs_lh
  | .lw => encodedAs_lw
  | .lbu => encodedAs_lbu
  | .lhu => encodedAs_lhu
  | .sb => encodedAs_sb
  | .sh => encodedAs_sh
  | .sw => encodedAs_sw

theorem decodeWord_eq_instrOf_iff (m : Mnemonic) (w : Word) :
    decodeWord w = .ok (instrOf m w) ↔ (rowOf m).matchesWord w = true :=
  (encodedAs_instrOf m w).trans (matchesWord_iff _ w).symm

/-- Decoding as a match with the mnemonic's row, the operands read from the fields (R93). -/
theorem decodeWord_eq_ok_iff (i : Instr) (w : Word) :
    decodeWord w = .ok i ↔ (rowOf i.mnemonic).matchesWord w = true ∧ instrOf i.mnemonic w = i := by
  constructor
  · intro h
    have hrow := (matchesWord_iff _ w).2 (decodeWord_sound w i h)
    have hread := (decodeWord_eq_instrOf_iff _ w).2 hrow
    exact ⟨hrow, Decoded.ok.inj (hread.symm.trans h)⟩
  · rintro ⟨hrow, hread⟩
    rw [(decodeWord_eq_instrOf_iff _ w).2 hrow, hread]

/-- Settles O38: a row is the one of its mnemonic, and a word that matches it decodes to what it reads from the word. -/
theorem decoderAcceptsTheTableWords : Obligations.DecoderAcceptsTheTableWords := by
  intro w m
  constructor
  · rintro ⟨i, hi, rfl⟩
    exact ⟨rowOf i.mnemonic, rowOf_mem _, mnemonic_rowOf _, ((decodeWord_eq_ok_iff i w).1 hi).1⟩
  · rintro ⟨r, hr, rfl, hmatch⟩
    rw [eq_rowOf_of_mem hr] at hmatch
    exact ⟨_, (decodeWord_eq_instrOf_iff _ w).2 hmatch, mnemonic_instrOf _ w⟩

/-- Settles O40: two rows that match a word each read from it what it decodes to, so their mnemonics are the same. -/
theorem opcodeRowsAreDisjoint : Obligations.OpcodeRowsAreDisjoint := by
  intro w r hr q hq hrw hqw
  rw [eq_rowOf_of_mem hr, ← decodeWord_eq_instrOf_iff] at hrw
  rw [eq_rowOf_of_mem hq, ← decodeWord_eq_instrOf_iff] at hqw
  have hread : instrOf r.mnemonic w = instrOf q.mnemonic w := Decoded.ok.inj (hrw.symm.trans hqw)
  have hmnemonic : r.mnemonic = q.mnemonic := by
    rw [← mnemonic_instrOf r.mnemonic w, hread, mnemonic_instrOf]
  rw [eq_rowOf_of_mem hr, hmnemonic, ← eq_rowOf_of_mem hq]

/-! ### The formats (R81 to R86): which words a format writes -/

theorem encodeR_eq_iff (rs rt rd s : BitVec 5) (f : BitVec 6) (w : Word) :
    encodeR rs rt rd s f = w ↔
      opcodeOf w = 0#6 ∧ rsOf w = rs ∧ rtOf w = rt ∧ rdOf w = rd ∧ shamtOf w = s ∧ functOf w = f := by
  constructor
  · rintro rfl
    exact ⟨opcodeOf_encodeR .., rsOf_encodeR .., rtOf_encodeR .., rdOf_encodeR .., shamtOf_encodeR ..,
      functOf_encodeR ..⟩
  · rintro ⟨hop, rfl, rfl, rfl, rfl, rfl⟩
    rw [encodeR, ← hop]
    exact (word_fields w).symm

theorem encodeI_eq_iff (op : BitVec 6) (rs rt : Reg) (imm : Half) (w : Word) :
    encodeI op rs rt imm = w ↔ opcodeOf w = op ∧ rsOf w = rs ∧ rtOf w = rt ∧ immOf w = imm := by
  constructor
  · rintro rfl
    exact ⟨opcodeOf_encodeI .., rsOf_encodeI .., rtOf_encodeI .., immOf_encodeI ..⟩
  · rintro ⟨rfl, rfl, rfl, rfl⟩
    unfold encodeI opcodeOf rsOf rtOf immOf
    iterate 3 rw [BitVec.extractLsb'_append_extractLsb'_eq_extractLsb' (by rfl)]
    simp

theorem encodeJ_eq_iff (op : BitVec 6) (index : BitVec 26) (w : Word) :
    encodeJ op index = w ↔ opcodeOf w = op ∧ indexOf w = index := by
  constructor
  · rintro rfl
    exact ⟨opcodeOf_encodeJ .., indexOf_encodeJ ..⟩
  · rintro ⟨rfl, rfl⟩
    unfold encodeJ opcodeOf indexOf
    rw [BitVec.extractLsb'_append_extractLsb'_eq_extractLsb' (by rfl)]
    simp

theorem encodeCode_eq_iff (code : BitVec 20) (f : BitVec 6) (w : Word) :
    encodeCode code f = w ↔ opcodeOf w = 0#6 ∧ codeOf w = code ∧ functOf w = f := by
  constructor
  · rintro rfl
    exact ⟨opcodeOf_encodeCode .., codeOf_encodeCode .., functOf_encodeCode ..⟩
  · rintro ⟨hop, rfl, rfl⟩
    rw [encodeCode, ← hop]
    unfold codeOf opcodeOf functOf
    iterate 2 rw [BitVec.extractLsb'_append_extractLsb'_eq_extractLsb' (by rfl)]
    simp

theorem encodeCop0_eq_iff (sel rt rd : Reg) (w : Word) :
    encodeCop0 sel rt rd = w ↔
      opcodeOf w = 0x10#6 ∧ rsOf w = sel ∧ rtOf w = rt ∧ rdOf w = rd ∧ shamtOf w = 0#5 ∧ functOf w = 0#6 := by
  rw [← low11_eq_zero]
  constructor
  · rintro rfl
    exact ⟨opcodeOf_encodeCop0 .., rsOf_encodeCop0 .., rtOf_encodeCop0 .., rdOf_encodeCop0 .., low11_encodeCop0 ..⟩
  · rintro ⟨hop, rfl, rfl, rfl, hlow⟩
    rw [encodeCop0, ← hop, ← hlow]
    unfold opcodeOf rsOf rtOf rdOf
    iterate 4 rw [BitVec.extractLsb'_append_extractLsb'_eq_extractLsb' (by rfl)]
    simp

/-! ### Encoding and decoding are inverse -/

/-- A word under a numeral mask, field by field. -/
theorem and_ofNat_eq_iff (w : Word) (mask pattern : Nat) :
    w &&& BitVec.ofNat 32 mask = BitVec.ofNat 32 pattern ↔
      opcodeOf w &&& BitVec.ofNat 6 (mask >>> 26) = BitVec.ofNat 6 (pattern >>> 26) ∧
        rsOf w &&& BitVec.ofNat 5 (mask >>> 21) = BitVec.ofNat 5 (pattern >>> 21) ∧
        rtOf w &&& BitVec.ofNat 5 (mask >>> 16) = BitVec.ofNat 5 (pattern >>> 16) ∧
        rdOf w &&& BitVec.ofNat 5 (mask >>> 11) = BitVec.ofNat 5 (pattern >>> 11) ∧
        shamtOf w &&& BitVec.ofNat 5 (mask >>> 6) = BitVec.ofNat 5 (pattern >>> 6) ∧
        functOf w &&& BitVec.ofNat 6 mask = BitVec.ofNat 6 pattern := by
  rw [mask_iff]
  simp only [opcodeOf_ofNat, rsOf_ofNat, rtOf_ofNat, rdOf_ofNat, shamtOf_ofNat, functOf_ofNat]

/-- The encoder fixes the fields that the row's mask covers, and the others are the operands: format by format. -/
theorem encode_eq_iff (i : Instr) (w : Word) :
    encode i = w ↔ (rowOf i.mnemonic).matchesWord w = true ∧ instrOf i.mnemonic w = i := by
  rw [matchesWord_iff]
  cases i with
  | sll | srl | sra | sllv | srlv | srav | jr | jalr | mfhi | mthi | mflo | mtlo | mult | multu | div | divu
  | add | addu | sub | subu | and | or | xor | nor | slt | sltu =>
    simp [encode, encodeR_eq_iff, Instr.mnemonic, rowOf, and_ofNat_eq_iff, and_full5, and_full6, instrOf]
    tauto
  | syscall | brk =>
    simp [encode, encodeCode_eq_iff, Instr.mnemonic, rowOf, and_ofNat_eq_iff, and_full6, instrOf]
    tauto
  | beq | bne => simp [encode, encodeI_eq_iff, Instr.mnemonic, rowOf, and_ofNat_eq_iff, and_full6, instrOf]
  | bltz | bgez | blez | bgtz | addi | addiu | slti | sltiu | andi | ori | xori | lui
  | lb | lh | lw | lbu | lhu | sb | sh | sw =>
    simp [encode, encodeI_eq_iff, Instr.mnemonic, rowOf, and_ofNat_eq_iff, and_full5, and_full6, instrOf]
    tauto
  | j | jal => simp [encode, encodeJ_eq_iff, Instr.mnemonic, rowOf, and_ofNat_eq_iff, and_full6, instrOf]
  | mfc0 | mtc0 =>
    simp [encode, encodeCop0_eq_iff, Instr.mnemonic, rowOf, and_ofNat_eq_iff, and_full5, and_full6, instrOf]
    tauto
  | eret =>
    have hfull : w &&& 0xFFFFFFFF#32 = w := BitVec.and_allOnes
    simp [encode, Instr.mnemonic, rowOf, instrOf, hfull, eq_comm]

/-- Both sides are the same reading of the word: no bit of an accepted word is ignored. -/
theorem decodeWord_eq_ok_iff_encode_eq (i : Instr) (w : Word) : decodeWord w = .ok i ↔ encode i = w :=
  (decodeWord_eq_ok_iff i w).trans (encode_eq_iff i w).symm

theorem decodeBytes_bytesOfWord (w : Word) : decodeBytes (bytesOfWord w) = decodeWord w := by
  rw [bytesOfWord, decodeBytes, wordOfBytes_bytesOfWord]

/-- Settles O36: the encoding of an instruction is the word that decodes to it. -/
theorem decodeOfEncodeIsIdentity : Obligations.DecodeOfEncodeIsIdentity := by
  intro i
  have hdecode : decodeWord (encode i) = .ok i := (decodeWord_eq_ok_iff_encode_eq i _).2 rfl
  exact ⟨hdecode, (decodeBytes_bytesOfWord _).trans hdecode⟩

/-- Settles O37: a word that decodes to an instruction is its encoding. -/
theorem encodeOfDecodeIsIdentity : Obligations.EncodeOfDecodeIsIdentity :=
  fun w i => (decodeWord_eq_ok_iff_encode_eq i w).1

/-! ### Selectors (R91, R94) -/

theorem decodeWord_regimm {w : Word} (h : opcodeOf w = 0x01#6) : decodeWord w = decodeRegimm w := by
  simp [decodeWord, h]

theorem decodeWord_cop0 {w : Word} (h : opcodeOf w = 0x10#6) : decodeWord w = decodeCop0 w := by
  simp [decodeWord, h]

theorem opcodeOf_mask_rowOf (m : Mnemonic) : opcodeOf (rowOf m).mask = 63#6 := by cases m <;> decide

/-- Every row fixes the primary opcode. -/
theorem opcodeOf_of_decodeWord {w : Word} {i : Instr} (h : decodeWord w = .ok i) :
    opcodeOf w = opcodeOf (rowOf i.mnemonic).pattern := by
  have hop := ((mask_iff ..).1 (decodeWord_sound w i h)).1
  rwa [opcodeOf_mask_rowOf, and_full6] at hop

/-- A fixed field that is not zero refuses the word (R95). -/
theorem ifZero_false_ne_ok (i j : Instr) : ifZero false i ≠ .ok j := nofun

/-- Under opcode 010000 nothing else than MFC0, MTC0 and ERET decodes. -/
theorem decodeCop0_ne_ok {w : Word} (hw : w ≠ 0x42000018#32)
    (hsel : rsOf w ≠ 0b00000#5 ∧ rsOf w ≠ 0b00100#5 ∨ w.extractLsb' 0 11 ≠ 0#11) (i : Instr) :
    decodeCop0 w ≠ .ok i := by
  rw [decodeCop0, if_neg hw]
  rcases hsel with ⟨hmfc0, hmtc0⟩ | hlow
  · rw [if_neg hmfc0, if_neg hmtc0]
    exact nofun
  · have hones : (w.extractLsb' 0 11 == 0) = false := beq_false_of_ne hlow
    rw [hones]
    split
    · exact ifZero_false_ne_ok _ i
    split
    · exact ifZero_false_ne_ok _ i
    · exact nofun

/-- Settles O39: what decodes has the opcode of a row, and the two selector fields are read as the maps list them. -/
theorem unlistedSelectorsSelectNothing : Obligations.UnlistedSelectorsSelectNothing := by
  refine ⟨fun w hop i hi => hop ?_, fun w hop => ?_, fun w hop => ?_⟩
  · rw [opcodeOf_of_decodeWord hi]
    cases i.mnemonic <;> decide
  · rw [decodeWord_regimm hop, decodeRegimm]
    refine ⟨fun h => if_pos h, fun h => by rw [h]; rfl, fun hbltz hbgez i => ?_⟩
    rw [if_neg hbltz, if_neg hbgez]
    exact nofun
  · rw [decodeWord_cop0 hop]
    refine ⟨fun hrs hlow => ?_, fun hrs hlow => ?_, ?_, decodeCop0_ne_ok⟩
    · simp [decodeCop0, ifZero, hrs, hlow]
    · simp [decodeCop0, ifZero, hrs, hlow]
    · rintro rfl
      rfl

/-! ### The assembler (R98, R99) -/

/-- An answer of the assembler for a line of mnemonic `m`: given exactly where the check `ok` holds, and bearing `m`. -/
def AnswersFor (m : Mnemonic) (ok : Bool) (o : Option Instr) : Prop :=
  o.isSome = ok ∧ ∀ i, o = some i → i.mnemonic = m

section
variable {m : Mnemonic} {ok c : Bool} {α : Type} {x : Option α}

theorem AnswersFor.some {i : Instr} (h : i.mnemonic = m) : AnswersFor m true (some i) :=
  ⟨rfl, fun _ hi => Option.some.inj hi ▸ h⟩

theorem AnswersFor.none (m : Mnemonic) : AnswersFor m false none := ⟨rfl, nofun⟩

/-- A field that is read before the rest adds its own check. -/
theorem AnswersFor.bind {f : α → Option Instr} (hx : x.isSome = c) (hf : ∀ a, AnswersFor m ok (f a)) :
    AnswersFor m (c && ok) (x >>= f) := by
  subst hx
  cases x with
  | none => exact .none m
  | some a => exact hf a

/-- The field that is read last. -/
theorem AnswersFor.bind_some {f : α → Instr} (hx : x.isSome = c) (hf : ∀ a, (f a).mnemonic = m) :
    AnswersFor m c (x >>= fun a => Option.some (f a)) := by
  rw [← Bool.and_true c]
  exact .bind hx fun a => .some (hf a)

/-- The lookup of the constructor does not fail and adds no check. -/
theorem AnswersFor.lookup {a : α} {f : α → Option Instr} (hx : x = Option.some a) (hf : AnswersFor m ok (f a)) :
    AnswersFor m ok (x >>= f) := by
  rw [hx]
  exact hf

end

/-! #### The fields: each is read exactly where its operand is in range -/

theorem isSome_ite_eq_decide {α : Type} {p : Prop} [Decidable p] (a : α) :
    (if p then some a else none).isSome = decide p := by
  split <;> simp [*]

theorem regField_isSome (r : RegText) : (regField r).isSome = r.isGeneral := by
  cases r with
  | named => rfl
  | numbered n => exact isSome_ite_eq_decide _

theorem cp0Field_isSome (r : RegText) : (cp0Field r).isSome = r.isCp0 := by
  cases r with
  | named => rfl
  | numbered n => exact isSome_ite_eq_decide _

theorem immField_isSome (v : Int) : (immField v).isSome = immInRange v :=
  (isSome_ite_eq_decide _).trans (Bool.decide_and ..)

theorem uintField_isSome (n : Nat) (v : Int) : (uintField n v).isSome = uintInRange n v :=
  (isSome_ite_eq_decide _).trans (Bool.decide_and ..)

/-! #### The constructors: a mnemonic of a shape has one, and it bears the mnemonic -/

section
variable {m : Mnemonic}

theorem threeRegInstr_of_shape (h : m.shape = .threeRegs) :
    ∃ f, threeRegInstr m = some f ∧ ∀ a b c, (f a b c).mnemonic = m := by
  cases m <;> cases h <;> exact ⟨_, rfl, fun _ _ _ => rfl⟩

theorem shamtInstr_of_shape (h : m.shape = .twoRegsShamt) :
    ∃ f, shamtInstr m = some f ∧ ∀ a b s, (f a b s).mnemonic = m := by
  cases m <;> cases h <;> exact ⟨_, rfl, fun _ _ _ => rfl⟩

theorem twoRegImmInstr_of_shape (h : m.shape = .twoRegsImm) :
    ∃ f, twoRegImmInstr m = some f ∧ ∀ a b v, (f a b v).mnemonic = m := by
  cases m <;> cases h <;> exact ⟨_, rfl, fun _ _ _ => rfl⟩

theorem oneRegImmInstr_of_shape (h : m.shape = .oneRegImm) :
    ∃ f, oneRegImmInstr m = some f ∧ ∀ a v, (f a v).mnemonic = m := by
  cases m <;> cases h <;> exact ⟨_, rfl, fun _ _ => rfl⟩

theorem twoRegInstr_of_shape (h : m.shape = .twoRegs) :
    ∃ f, twoRegInstr m = some f ∧ ∀ a b, (f a b).mnemonic = m := by
  cases m <;> cases h <;> exact ⟨_, rfl, fun _ _ => rfl⟩

theorem oneRegInstr_of_shape (h : m.shape = .oneReg) :
    ∃ f, oneRegInstr m = some f ∧ ∀ a, (f a).mnemonic = m := by
  cases m <;> cases h <;> exact ⟨_, rfl, fun _ => rfl⟩

theorem cp0Instr_of_shape (h : m.shape = .regCp0) :
    ∃ f, cp0Instr m = some f ∧ ∀ a c, (f a c).mnemonic = m := by
  cases m <;> cases h <;> exact ⟨_, rfl, fun _ _ => rfl⟩

theorem memInstr_of_shape (h : m.shape = .regMem) :
    ∃ f, memInstr m = some f ∧ ∀ a o b, (f a o b).mnemonic = m := by
  cases m <;> cases h <;> exact ⟨_, rfl, fun _ _ _ => rfl⟩

theorem targetInstr_of_shape (h : m.shape = .target) :
    ∃ f, targetInstr m = some f ∧ ∀ t, (f t).mnemonic = m := by
  cases m <;> cases h <;> exact ⟨_, rfl, fun _ => rfl⟩

theorem codeInstr_of_shape (h : m.shape = .code) :
    ∃ f, codeInstr m = some f ∧ ∀ c, (f c).mnemonic = m := by
  cases m <;> cases h <;> exact ⟨_, rfl, fun _ => rfl⟩

theorem eq_eret_of_shape (h : m.shape = .noOperand) : m = .eret := by
  cases m <;> cases h
  rfl

end

/-- Shape by shape, the assembler reads the operands that the check asks for. -/
theorem assemble_answersFor (l : AsmLine) : AnswersFor l.mnemonic l.wellFormed (assemble l) := by
  obtain ⟨m, operands⟩ := l
  unfold assemble
  dsimp only
  split
  next a b c h =>
    obtain ⟨f, hf, hm⟩ := threeRegInstr_of_shape h
    simp only [AsmLine.wellFormed, h, Bool.and_assoc]
    exact .lookup hf <| .bind (regField_isSome a) fun _ => .bind (regField_isSome b) fun _ =>
      .bind_some (regField_isSome c) fun _ => hm _ _ _
  next a b s h =>
    obtain ⟨f, hf, hm⟩ := shamtInstr_of_shape h
    simp only [AsmLine.wellFormed, h, Bool.and_assoc]
    exact .lookup hf <| .bind (regField_isSome a) fun _ => .bind (regField_isSome b) fun _ =>
      .bind_some (uintField_isSome 5 s) fun _ => hm _ _ _
  next a b v h =>
    obtain ⟨f, hf, hm⟩ := twoRegImmInstr_of_shape h
    simp only [AsmLine.wellFormed, h, Bool.and_assoc]
    exact .lookup hf <| .bind (regField_isSome a) fun _ => .bind (regField_isSome b) fun _ =>
      .bind_some (immField_isSome v) fun _ => hm _ _ _
  next a v h =>
    obtain ⟨f, hf, hm⟩ := oneRegImmInstr_of_shape h
    simp only [AsmLine.wellFormed, h]
    exact .lookup hf <| .bind (regField_isSome a) fun _ => .bind_some (immField_isSome v) fun _ => hm _ _
  next a b h =>
    obtain ⟨f, hf, hm⟩ := twoRegInstr_of_shape h
    simp only [AsmLine.wellFormed, h]
    exact .lookup hf <| .bind (regField_isSome a) fun _ => .bind_some (regField_isSome b) fun _ => hm _ _
  next a h =>
    obtain ⟨f, hf, hm⟩ := oneRegInstr_of_shape h
    simp only [AsmLine.wellFormed, h]
    exact .lookup hf <| .bind_some (regField_isSome a) fun _ => hm _
  next a c h =>
    obtain ⟨f, hf, hm⟩ := cp0Instr_of_shape h
    simp only [AsmLine.wellFormed, h]
    exact .lookup hf <| .bind (regField_isSome a) fun _ => .bind_some (cp0Field_isSome c) fun _ => hm _ _
  next a o b h =>
    obtain ⟨f, hf, hm⟩ := memInstr_of_shape h
    simp only [AsmLine.wellFormed, h]
    rw [Bool.and_right_comm, Bool.and_assoc]
    exact .lookup hf <| .bind (regField_isSome a) fun _ => .bind (immField_isSome o) fun _ =>
      .bind_some (regField_isSome b) fun _ => hm _ _ _
  next t h =>
    obtain ⟨f, hf, hm⟩ := targetInstr_of_shape h
    simp only [AsmLine.wellFormed, h]
    exact .lookup hf <| .bind_some (uintField_isSome 26 t) fun _ => hm _
  next h =>
    obtain ⟨f, hf, hm⟩ := codeInstr_of_shape h
    simp only [AsmLine.wellFormed, h]
    exact .lookup hf <| .some (hm 0)
  next c h =>
    obtain ⟨f, hf, hm⟩ := codeInstr_of_shape h
    simp only [AsmLine.wellFormed, h]
    exact .lookup hf <| .bind_some (uintField_isSome 20 c) fun _ => hm _
  next h =>
    simp only [AsmLine.wellFormed, h]
    exact .some (eq_eret_of_shape h).symm
  next =>
    -- No line is left that the check accepts: each shape that it lists was read above.
    unfold AsmLine.wellFormed
    dsimp only
    split
    case h_13 => exact .none m
    all_goals simp_all

/-- Settles O58: the assembler answers where the line is well formed, with the line's mnemonic. -/
theorem assemblerAcceptsWellFormedLines : Obligations.AssemblerAcceptsWellFormedLines := by
  intro l
  have ⟨hsome, hmnemonic⟩ := assemble_answersFor l
  exact ⟨by rw [hsome], hmnemonic⟩

end Sys2Proof.Machine
end

section
/-! PROOFS of the family 40_load.md. A load checks its alignment, then asks the map, then gives the lane of the
containing word that its address names; each of these three outcomes is one lemma (`ifAligned_misaligned`,
`ifAligned_finishLoad_unmapped`, and `execLb_mapped` and its kin), and the lane is `readData8_eq_lane` and its kin. -/

namespace Sys2Proof.Machine

/-! ### Accesses that do not complete as an access (R54, R59) -/

/-- A misaligned access enters AddressError, whatever the access would have done. -/
theorem ifAligned_misaligned {aligned : Bool} (ha : aligned ≠ true) (kind : AccessKind) (addr : Word)
    (access : Result) (s : State) :
    ∃ t, ifAligned aligned kind addr access s = .next t ∧
      Enters (.addressError kind addr) (s.pc + faultOffset s.cfg.faultEpcOffset) s t :=
  ⟨_, if_neg ha, raise_spec (.addressError kind addr) s⟩

/-- A load that passes its check of alignment faults outside `DMEM`. -/
theorem ifAligned_finishLoad_unmapped {aligned : Bool} {addr : Word} {s : State} (ha : aligned = true)
    (hm : s.cfg.mapsData addr = false) (rt : Reg) (n : Nat) (v : Word) :
    ifAligned aligned .load addr (finishLoad rt addr n v s) s = .fault (.unmappedAccess addr) := by
  rw [ifAligned, if_pos ha, finishLoad_unmapped rt addr n v s hm]

/-! ### The loads (R110 to R114) -/

/-- Settles O16: a byte access needs no alignment, and the byte at an address is its lane of the containing word. -/
theorem loadByteFromItsLane : Obligations.LoadByteFromItsLane := by
  refine ⟨encodedAs_lb, encodedAs_lbu, fun rt base offset s => ?_⟩
  intro addr b
  have hb : s.readData8 addr = b := readData8_eq_lane s addr
  split
  next hm =>
    rw [← hb]
    exact ⟨execLb_mapped hm rt, execLbu_mapped hm rt⟩
  next hm =>
    have hm := Bool.eq_false_of_not_eq_true hm
    exact ⟨finishLoad_unmapped rt addr 1 _ s hm, finishLoad_unmapped rt addr 1 _ s hm⟩

/-- Settles O17: at an even address the two bytes read lie in one word and are its lane; an odd address is refused
before the map is asked. -/
theorem loadHalfwordFromItsLane : Obligations.LoadHalfwordFromItsLane := by
  refine ⟨encodedAs_lh, encodedAs_lhu, fun rt base offset s => ?_⟩
  intro addr h
  split
  next hodd =>
    have ha : aligned2 addr ≠ true := mt (aligned2_iff addr).1 hodd
    exact ⟨ifAligned_misaligned ha .load addr _ s, ifAligned_misaligned ha .load addr _ s⟩
  next heven =>
    have heven : addr.toNat % 2 = 0 := not_not.1 heven
    have ha : aligned2 addr = true := (aligned2_iff addr).2 heven
    have hh : s.readData16 addr = h := readData16_eq_lane s heven
    split
    next hm =>
      rw [← hh]
      exact ⟨execLh_mapped heven hm rt, execLhu_mapped heven hm rt⟩
    next hm =>
      have hm := Bool.eq_false_of_not_eq_true hm
      exact ⟨ifAligned_finishLoad_unmapped ha hm rt 2 _, ifAligned_finishLoad_unmapped ha hm rt 2 _⟩

/-- Settles O18: at a multiple of 4 the four bytes read are the containing word; any other address is refused before
the map is asked. -/
theorem loadWordOrAddressError : Obligations.LoadWordOrAddressError := by
  refine ⟨encodedAs_lw, fun rt base offset s => ?_⟩
  intro addr
  split
  next hmis => exact ifAligned_misaligned (mt (aligned4_iff addr).1 hmis) .load addr _ s
  next haligned =>
    have haligned : addr.toNat % 4 = 0 := not_not.1 haligned
    split
    next hm =>
      rw [← readData32_eq_memword s haligned]
      exact execLw_mapped haligned hm rt
    next hm =>
      exact ifAligned_finishLoad_unmapped ((aligned4_iff addr).2 haligned) (Bool.eq_false_of_not_eq_true hm) rt 4 _

end Sys2Proof.Machine
end

section
/-! PROOFS of the family 41_store.md. A store checks its alignment, then asks the map, then writes its bytes: a
misaligned address is `ifAligned_misaligned`, and `exec_store_mapped` and `exec_store_unmapped` are the two answers of
the map, put together here as the form in which the statements have them. -/

namespace Sys2Proof.Machine

/-- A store at a multiple of its size completes or faults as the map says (R56, R59). -/
theorem exec_store_aligned {i : Instr} {rt base : Reg} {offset : Half} {n : Nat} {s : State}
    (hi : i = .sb rt offset base ∧ n = 1 ∨ i = .sh rt offset base ∧ n = 2 ∨ i = .sw rt offset base ∧ n = 4)
    (ha : (effAddr base offset s).toNat % n = 0) :
    if s.cfg.mapsData (effAddr base offset s) then
      Completes i s (StoresBytes (effAddr base offset s) n (s.readReg rt) s)
    else exec i s = .fault (.unmappedAccess (effAddr base offset s)) := by
  split
  next hm => exact exec_store_mapped hi ha hm
  next hm => exact exec_store_unmapped hi ha (Bool.eq_false_of_not_eq_true hm)

/-- Settles O19: every address is a multiple of 1, so SB asks only the map. -/
theorem storeByteStoresLowByte : Obligations.StoreByteStoresLowByte :=
  ⟨encodedAs_sb, fun _ _ _ _ => exec_store_aligned (.inl ⟨rfl, rfl⟩) (Nat.mod_one _)⟩

/-- Settles O20: an odd address is refused before the map is asked, an even one is a multiple of SH's size. -/
theorem storeHalfwordOrAddressError : Obligations.StoreHalfwordOrAddressError := by
  refine ⟨encodedAs_sh, fun rt base offset s => ?_⟩
  intro addr
  split
  next hodd => exact ifAligned_misaligned (mt (aligned2_iff addr).1 hodd) .store addr _ s
  next heven => exact exec_store_aligned (.inr (.inl ⟨rfl, rfl⟩)) (not_not.1 heven)

/-- Settles O21: an address that is no multiple of 4 is refused before the map is asked, the others are multiples of
SW's size. -/
theorem storeWordOrAddressError : Obligations.StoreWordOrAddressError := by
  refine ⟨encodedAs_sw, fun rt base offset s => ?_⟩
  intro addr
  split
  next hmis => exact ifAligned_misaligned (mt (aligned4_iff addr).1 hmis) .store addr _ s
  next haligned => exact exec_store_aligned (.inr (.inr ⟨rfl, rfl⟩)) (not_not.1 haligned)

end Sys2Proof.Machine
end

section
/-! PROOFS of the family 42_rr_arith.md. Each meaning is brought to exact arithmetic once: the 33-bit `temp` of a
trapping form is the integer sum or difference and its low word the wrapping result, the shifts are multiplication and
division by a power of two, the 64-bit products are exact, and the division pairs are the library's truncated and
unsigned remainder and quotient. What an instruction leaves unchanged is `finishReg_spec`, `finishHiLo_spec` and
`raise_spec`. -/

namespace Sys2Proof.Machine

/-! ### Words as integers (R9) -/

theorem word_toInt_bounds (a : Word) : -2147483648 ≤ a.toInt ∧ a.toInt < 2147483648 :=
  ⟨BitVec.le_toInt a, BitVec.toInt_lt⟩

theorem half_toInt_bounds (h : Half) : -32768 ≤ h.toInt ∧ h.toInt < 32768 :=
  ⟨BitVec.le_toInt h, BitVec.toInt_lt⟩

/-- The low word of a signed number is the number modulo 2^32. -/
theorem extractLsb'_zero_eq_ofInt {w : Nat} (x : BitVec w) (hw : 32 ≤ w) :
    x.extractLsb' 0 32 = BitVec.ofInt 32 x.toInt := by
  have hdvd : 2 ^ 32 ∣ 2 ^ w := Nat.pow_dvd_pow 2 hw
  rw [← BitVec.setWidth_eq_extractLsb' hw, ← BitVec.toInt_inj, BitVec.toInt_setWidth, BitVec.toInt_ofInt,
    BitVec.toInt_eq_toNat_bmod, Int.bmod_bmod_of_dvd hdvd]

/-- A 64-bit number is its upper word followed by its lower word. -/
theorem upper_append_lower (p : BitVec 64) : p.extractLsb' 32 32 ++ p.extractLsb' 0 32 = p := by
  rw [BitVec.extractLsb'_append_extractLsb'_eq_extractLsb' (by rfl)]
  simp

/-! ### The 33-bit results of the trapping forms (R130, R132, R150, R160) -/

theorem widen_toInt (a : Word) : (widen a).toInt = a.toInt := BitVec.toInt_signExtend_of_le (by decide)

theorem addTemp_toInt (a b : Word) : (addTemp a b).toInt = a.toInt + b.toInt := by
  have ha := word_toInt_bounds a
  have hb := word_toInt_bounds b
  rw [addTemp, BitVec.toInt_add, widen_toInt, widen_toInt]
  exact Int.bmod_eq_of_le_mul_two (by omega) (by omega)

theorem subTemp_toInt (a b : Word) : (subTemp a b).toInt = a.toInt - b.toInt := by
  have ha := word_toInt_bounds a
  have hb := word_toInt_bounds b
  rw [subTemp, BitVec.toInt_sub, widen_toInt, widen_toInt]
  exact Int.bmod_eq_of_le_mul_two (by omega) (by omega)

theorem addImmTemp_toInt (a : Word) (imm : Half) : (addImmTemp a imm).toInt = a.toInt + imm.toInt := by
  have ha := word_toInt_bounds a
  have hi := half_toInt_bounds imm
  have himm : (imm.signExtend 33).toInt = imm.toInt := BitVec.toInt_signExtend_of_le (by decide)
  rw [addImmTemp, BitVec.toInt_add, widen_toInt, himm]
  exact Int.bmod_eq_of_le_mul_two (by omega) (by omega)

theorem addTemp_low (a b : Word) : (addTemp a b).extractLsb' 0 32 = a + b := by
  rw [extractLsb'_zero_eq_ofInt _ (by decide), addTemp_toInt, BitVec.ofInt_add, BitVec.ofInt_toInt, BitVec.ofInt_toInt]

theorem subTemp_low (a b : Word) : (subTemp a b).extractLsb' 0 32 = a - b := by
  rw [extractLsb'_zero_eq_ofInt _ (by decide), subTemp_toInt, ← BitVec.toInt_inj, BitVec.toInt_ofInt,
    BitVec.toInt_sub]

theorem addImmTemp_low (a : Word) (imm : Half) : (addImmTemp a imm).extractLsb' 0 32 = a + signExtImm imm := by
  rw [extractLsb'_zero_eq_ofInt _ (by decide), addImmTemp_toInt, BitVec.ofInt_add, BitVec.ofInt_toInt]
  rfl

/-- The two top bits of a 33-bit number differ exactly when it is no signed 32-bit number (R150). -/
theorem overflowed_iff (temp : BitVec 33) :
    overflowed temp = true ↔ temp.toInt < -2147483648 ∨ 2147483647 < temp.toInt := by
  have hlt := temp.isLt
  have hsign : temp.getLsbD 32 = decide (temp.toNat / 2 ^ 32 % 2 = 1) := Nat.testBit_eq_decide_div_mod_eq
  have hnext : temp.getLsbD 31 = decide (temp.toNat / 2 ^ 31 % 2 = 1) := Nat.testBit_eq_decide_div_mod_eq
  rw [overflowed, bne_iff_ne, hsign, hnext, ne_eq, decide_eq_decide, BitVec.toInt_eq_toNat_cond]
  split <;> omega

/-- A trapping form, its overflow test read as a comparison of integers and `v` its low word. -/
theorem finishOrOverflow_eq {temp : BitVec 33} {v : Word} (hv : temp.extractLsb' 0 32 = v) (rd : Reg) (s : State) :
    finishOrOverflow rd temp s =
      if temp.toInt < -2147483648 ∨ 2147483647 < temp.toInt then .next (raise .integerOverflow s)
      else finishReg rd v s := by
  simp only [finishOrOverflow, overflowed_iff, hv]

/-- A trapping form delivers the exact result where it is a signed 32-bit number, and else enters IntegerOverflow. -/
theorem finishOrOverflow_spec (rd : Reg) (temp : BitVec 33) (s : State) :
    if -2147483648 ≤ temp.toInt ∧ temp.toInt < 2147483648 then
      ∃ v : Word, v.toInt = temp.toInt ∧ ∃ t, finishOrOverflow rd temp s = .next t ∧ WritesReg rd v s t
    else
      ∃ t, finishOrOverflow rd temp s = .next t ∧
        Enters .integerOverflow (s.pc + faultOffset s.cfg.faultEpcOffset) s t := by
  rw [finishOrOverflow_eq (extractLsb'_zero_eq_ofInt temp (by decide))]
  split
  next hfits =>
    obtain ⟨hlo, hhi⟩ := hfits
    rw [if_neg (by omega)]
    exact ⟨_, BitVec.toInt_ofInt_eq_self (by decide) hlo hhi, finishReg_spec rd _ s⟩
  next hout =>
    rw [if_pos (by omega)]
    exact ⟨_, rfl, raise_spec .integerOverflow s⟩

/-- Settles O1: the 33-bit sum is exact, and the overflow test asks whether it fits. -/
theorem addGivesSumOrTraps : Obligations.AddGivesSumOrTraps := by
  refine ⟨encodedAs_add, fun rd rs rt s => ?_⟩
  rw [← addTemp_toInt]
  exact finishOrOverflow_spec rd _ s

/-- Settles O2: the 33-bit difference is exact, and the overflow test asks whether it fits. -/
theorem subGivesDifferenceOrTraps : Obligations.SubGivesDifferenceOrTraps := by
  refine ⟨encodedAs_sub, fun rd rs rt s => ?_⟩
  rw [← subTemp_toInt]
  exact finishOrOverflow_spec rd _ s

/-- Settles O5: where the exact result fits, a trapping form writes its low word, which is the wrapping result. -/
theorem trappingFormsAgreeWithWrappingForms : Obligations.TrappingFormsAgreeWithWrappingForms := by
  refine ⟨fun rd rs rt s => ?_, fun rd rs rt s => ?_, fun rt rs imm s => ?_⟩
  · rw [← addTemp_toInt]
    exact finishOrOverflow_eq (addTemp_low _ _) rd s
  · rw [← subTemp_toInt]
    exact finishOrOverflow_eq (subTemp_low _ _) rd s
  · rw [← addImmTemp_toInt]
    exact finishOrOverflow_eq (addImmTemp_low _ imm) rt s

/-! ### The wrapping forms (R131, R133, R161) -/

theorem toNat_sub_eq_emod (a b : Word) : ((a - b).toNat : Int) = ((a.toNat : Int) - b.toNat) % 4294967296 := by
  have ha := a.isLt
  have hb := b.isLt
  rw [BitVec.toNat_sub]
  omega

/-- The sign-extended immediate stands for the signed immediate modulo 2^32 (R11, R87). -/
theorem toNat_signExtImm (imm : Half) : ((signExtImm imm).toNat : Int) = imm.toInt % 4294967296 := by
  rw [signExtImm, BitVec.signExtend, BitVec.toNat_ofInt]
  exact Int.toNat_of_nonneg (Int.emod_nonneg _ (by decide))

theorem toNat_add_signExtImm (a : Word) (imm : Half) :
    ((a + signExtImm imm).toNat : Int) = (a.toNat + imm.toInt) % 4294967296 := by
  have himm := toNat_signExtImm imm
  rw [BitVec.toNat_add]
  omega

/-- Settles O4: the operations of 32-bit words are those of the integers modulo 2^32. -/
theorem wrappingAddAndSubtract : Obligations.WrappingAddAndSubtract := by
  refine ⟨encodedAs_addu, encodedAs_subu, encodedAs_addiu, fun rd rs rt s => ?_, fun rd rs rt s => ?_,
    fun rt rs imm s => ?_⟩
  · exact ⟨_, BitVec.toNat_add _ _, finishReg_spec rd _ s⟩
  · exact ⟨_, toNat_sub_eq_emod _ _, finishReg_spec rd _ s⟩
  · exact ⟨_, toNat_add_signExtImm _ imm, finishReg_spec rt _ s⟩

/-! ### Comparisons (R138, R139) -/

/-- The word of a test is 1 or 0 as the tested proposition holds. -/
theorem setWord_decide (p : Prop) [Decidable p] : setWord (decide p) = if p then 1#32 else 0#32 := by
  by_cases hp : p <;> simp [setWord, hp]

/-- Settles O9: the tests are the comparisons of the signed and of the unsigned readings. -/
theorem setOnLessThanRegisters : Obligations.SetOnLessThanRegisters := by
  refine ⟨encodedAs_slt, encodedAs_sltu, fun rd rs rt s => ⟨?_, ?_⟩⟩
  · rw [← setWord_decide]
    exact finishReg_spec rd _ s
  · rw [← setWord_decide]
    exact finishReg_spec rd _ s

/-! ### Bitwise operations (R146 to R149) -/

theorem getLsbD_nor (a b : Word) {k : Nat} (hk : k < 32) :
    (~~~(a ||| b)).getLsbD k = !(a.getLsbD k || b.getLsbD k) := by
  simp [hk]

/-- Settles O6: the word operations act on each bit. -/
theorem logicOnRegistersBitByBit : Obligations.LogicOnRegistersBitByBit := by
  refine ⟨encodedAs_and, encodedAs_or, encodedAs_xor, encodedAs_nor, fun rd rs rt s => ⟨?_, ?_, ?_, ?_⟩⟩
  · exact ⟨_, fun _ _ => BitVec.getLsbD_and, finishReg_spec rd _ s⟩
  · exact ⟨_, fun _ _ => BitVec.getLsbD_or, finishReg_spec rd _ s⟩
  · exact ⟨_, fun _ _ => BitVec.getLsbD_xor, finishReg_spec rd _ s⟩
  · exact ⟨_, fun _ hk => getLsbD_nor _ _ hk, finishReg_spec rd _ s⟩

/-! ### Shifts (R140 to R145) -/

theorem shiftLeft_toNat (v : Word) (n : BitVec 5) : (shiftLeft v n).toNat = v.toNat * 2 ^ n.toNat % 4294967296 := by
  rw [shiftLeft, BitVec.toNat_shiftLeft, Nat.shiftLeft_eq]

theorem shiftRightLogical_toNat (v : Word) (n : BitVec 5) :
    (shiftRightLogical v n).toNat = v.toNat / 2 ^ n.toNat := by
  rw [shiftRightLogical, BitVec.toNat_ushiftRight, Nat.shiftRight_eq_div_pow]

/-- An arithmetic shift rounds down, for negative numbers too. -/
theorem shiftRightArith_toInt (v : Word) (n : BitVec 5) :
    (shiftRightArith v n).toInt = Int.fdiv v.toInt (2 ^ n.toNat) := by
  rw [shiftRightArith, BitVec.toInt_sshiftRight, Int.shiftRight_eq_div_pow,
    Int.fdiv_eq_ediv_of_nonneg _ (by positivity)]
  norm_cast

/-- The variable amount is the source register modulo 32 (R143, decision D20). -/
theorem varShamt_toNat (rs : Reg) (s : State) : (varShamt rs s).toNat = (s.readReg rs).toNat % 32 := by
  rw [varShamt, BitVec.extractLsb'_toNat, Nat.shiftRight_zero]

/-- The three shifts by one amount, each with the exact result that it writes. -/
theorem finishReg_shifts (rd : Reg) (v : Word) (n : BitVec 5) (s : State) :
    (∃ r : Word, r.toNat = v.toNat * 2 ^ n.toNat % 4294967296 ∧
      ∃ t, finishReg rd (shiftLeft v n) s = .next t ∧ WritesReg rd r s t) ∧
    (∃ r : Word, r.toNat = v.toNat / 2 ^ n.toNat ∧
      ∃ t, finishReg rd (shiftRightLogical v n) s = .next t ∧ WritesReg rd r s t) ∧
    (∃ r : Word, r.toInt = Int.fdiv v.toInt (2 ^ n.toNat) ∧
      ∃ t, finishReg rd (shiftRightArith v n) s = .next t ∧ WritesReg rd r s t) :=
  ⟨⟨_, shiftLeft_toNat v n, finishReg_spec rd _ s⟩, ⟨_, shiftRightLogical_toNat v n, finishReg_spec rd _ s⟩,
    ⟨_, shiftRightArith_toInt v n, finishReg_spec rd _ s⟩⟩

/-- Settles O11: the amount is the instruction's field. -/
theorem shiftsByConstantAmount : Obligations.ShiftsByConstantAmount :=
  ⟨encodedAs_sll, encodedAs_srl, encodedAs_sra, fun rd rt sa s => finishReg_shifts rd (s.readReg rt) sa s⟩

/-- Settles O12: the amount is the source register modulo 32. -/
theorem shiftsByRegisterAmount : Obligations.ShiftsByRegisterAmount := by
  refine ⟨encodedAs_sllv, encodedAs_srlv, encodedAs_srav, fun rd rt rs s => ?_⟩
  rw [← varShamt_toNat]
  exact finishReg_shifts rd (s.readReg rt) (varShamt rs s) s

/-! ### Products (R134, R135, R151) -/

/-- The product of two signed words needs no more than 63 bits. -/
theorem signedProduct_toInt (a b : Word) : (signedProduct a b).toInt = a.toInt * b.toInt := by
  have hlo : -4611686018427387904 ≤ a.toInt * b.toInt := BitVec.le_toInt_mul_toInt
  have hhi : a.toInt * b.toInt ≤ 4611686018427387904 := BitVec.toInt_mul_toInt_le
  exact BitVec.toInt_ofInt_eq_self (by decide) (by omega) (by omega)

theorem unsignedProduct_toNat (a b : Word) : (unsignedProduct a b).toNat = a.toNat * b.toNat := by
  have hlt : a.toNat * b.toNat < 2 ^ 32 * 2 ^ 32 := Nat.mul_lt_mul'' a.isLt b.isLt
  rw [unsignedProduct, BitVec.toNat_ofNat]
  exact Nat.mod_eq_of_lt hlt

theorem signedProduct_low (a b : Word) : (signedProduct a b).extractLsb' 0 32 = a * b := by
  rw [extractLsb'_zero_eq_ofInt _ (by decide), signedProduct_toInt, BitVec.ofInt_mul, BitVec.ofInt_toInt,
    BitVec.ofInt_toInt]

theorem unsignedProduct_low (a b : Word) : (unsignedProduct a b).extractLsb' 0 32 = a * b := by
  rw [← BitVec.toNat_inj, BitVec.extractLsb'_toNat, unsignedProduct_toNat, Nat.shiftRight_zero, BitVec.toNat_mul]

/-- Settles O13: HI and LO are the two halves of the exact product; LO is the wrapping product for both readings. -/
theorem multiplyGivesFullProduct : Obligations.MultiplyGivesFullProduct := by
  refine ⟨encodedAs_mult, encodedAs_multu, fun rs rt s => ?_, fun rs rt s => ?_, fun rs rt s t u ht hu => ?_⟩
  · refine ⟨_, _, ?_, finishHiLo_spec _ _ s⟩
    rw [upper_append_lower, signedProduct_toInt]
  · refine ⟨_, _, ?_, finishHiLo_spec _ _ s⟩
    rw [upper_append_lower, unsignedProduct_toNat]
  · obtain ⟨-, rfl⟩ := exec_next ht
    obtain ⟨-, rfl⟩ := exec_next hu
    exact (signedProduct_low _ _).trans (unsignedProduct_low _ _).symm

/-! ### Quotients and remainders (R136, R137, R152) -/

/-- The truncated quotient of two signed words is a word, but for -2^31 / -1. -/
theorem sdiv_toInt {a b : Word} (h : ¬ (a.toInt = -2147483648 ∧ b.toInt = -1)) :
    (a.sdiv b).toInt = a.toInt.tdiv b.toInt := by
  refine BitVec.toInt_sdiv_of_ne_or_ne a b (not_and_or.1 ?_)
  rintro ⟨rfl, rfl⟩
  exact h (by decide)

/-- Where DIV is not special the pair is the truncated remainder and quotient of the words. -/
theorem signedDivision_eq {a b : Word} (h : ¬ (b.toInt = 0 ∨ (a.toInt = -2147483648 ∧ b.toInt = -1))) :
    signedDivision a b = (a.srem b, a.sdiv b) := by
  have hq : a.toInt.tdiv b.toInt = (a.sdiv b).toInt := (sdiv_toInt (not_or.1 h).2).symm
  have hr : a.toInt - a.toInt.tdiv b.toInt * b.toInt = (a.srem b).toInt := by
    rw [BitVec.toInt_srem, Int.tmod_def, Int.mul_comm]
  simp only [signedDivision, if_neg h, hr, BitVec.ofInt_toInt]
  rw [hq, BitVec.ofInt_toInt]

/-- Where DIVU is not special the pair is the unsigned remainder and quotient of the words. -/
theorem unsignedDivision_eq {a b : Word} (h : b.toNat ≠ 0) : unsignedDivision a b = (a % b, a / b) := by
  have hq : BitVec.ofNat 32 (a.toNat / b.toNat) = a / b := by
    rw [← BitVec.toNat_udiv, BitVec.ofNat_toNat, BitVec.setWidth_eq]
  have hr : BitVec.ofNat 32 (a.toNat - a.toNat / b.toNat * b.toNat) = a % b := by
    rw [← Nat.mod_eq_sub_div_mul, ← BitVec.toNat_umod, BitVec.ofNat_toNat, BitVec.setWidth_eq]
  rw [unsignedDivision, if_neg h]
  exact Prod.ext hr hq

/-- A truncated remainder that is not zero has the sign of the dividend. -/
theorem tmod_eq_zero_or_neg_iff (a b : Int) : a.tmod b = 0 ∨ (a.tmod b < 0 ↔ a < 0) := by
  obtain ha | ha := Int.lt_or_le a 0
  · have hneg : 0 ≤ (-a).tmod b := Int.tmod_nonneg b (by omega)
    rw [Int.neg_tmod] at hneg
    omega
  · have hpos : 0 ≤ a.tmod b := Int.tmod_nonneg b ha
    omega

theorem natAbs_tmod_lt (a : Int) {b : Int} (hb : b ≠ 0) : (a.tmod b).natAbs < b.natAbs := by
  rw [Int.natAbs_tmod]
  exact Nat.mod_lt _ (Int.natAbs_pos.2 hb)

/-- Settles O14: truncated division has the three properties, and its quotient is a word but for -2^31 / -1. -/
theorem divideSignedTruncates : Obligations.DivideSignedTruncates := by
  refine ⟨encodedAs_div, fun rs rt s => ?_⟩
  intro a b
  have hcompletes : Completes (.div rs rt) s (WritesHiLo (signedDivision (s.readReg rs) (s.readReg rt)).1
      (signedDivision (s.readReg rs) (s.readReg rt)).2 s) := finishHiLo_spec _ _ s
  split
  next hspecial => rwa [signedDivision, if_pos hspecial] at hcompletes
  next h =>
    obtain ⟨hb, hfits⟩ := not_or.1 h
    rw [signedDivision_eq h] at hcompletes
    refine ⟨_, _, ?_, ?_, ?_, hcompletes⟩
    · rw [sdiv_toInt hfits, BitVec.toInt_srem, Int.tdiv_mul_add_tmod]
    · rw [BitVec.toInt_srem]
      exact natAbs_tmod_lt a hb
    · rw [BitVec.toInt_srem]
      exact tmod_eq_zero_or_neg_iff a b

/-- Settles O15: quotient and remainder of the unsigned readings. -/
theorem divideUnsignedFloors : Obligations.DivideUnsignedFloors := by
  refine ⟨encodedAs_divu, fun rs rt s => ?_⟩
  intro a b
  have hcompletes : Completes (.divu rs rt) s (WritesHiLo (unsignedDivision (s.readReg rs) (s.readReg rt)).1
      (unsignedDivision (s.readReg rs) (s.readReg rt)).2 s) := finishHiLo_spec _ _ s
  split
  next hzero => rwa [unsignedDivision, if_pos hzero] at hcompletes
  next hb =>
    rw [unsignedDivision_eq hb] at hcompletes
    refine ⟨_, _, ?_, ?_, hcompletes⟩
    · rw [BitVec.toNat_udiv, BitVec.toNat_umod, Nat.div_add_mod']
    · rw [BitVec.toNat_umod]
      exact Nat.mod_lt _ (Nat.pos_of_ne_zero hb)

end Sys2Proof.Machine
end

section
/-! PROOFS of the family 43_ri_arith.md. What an immediate form does is the register form's operation on the extended
immediate, so each obligation turns on what the extended immediate is: the sign-extended one is the signed immediate
(R11, R87), the zero-extended one has the immediate's bits and then zeros, and LUI's is the immediate times 2^16. The
trapping form is `finishOrOverflow_spec`, the others are `finishReg_spec`. -/

namespace Sys2Proof.Machine

/-! ### The trapping sum (R160) -/

/-- Settles O3: the 33-bit sum with the sign-extended immediate is exact, and the overflow test asks whether it fits. -/
theorem addiGivesSumOrTraps : Obligations.AddiGivesSumOrTraps := by
  refine ⟨encodedAs_addi, fun rt rs imm s => ?_⟩
  rw [← addImmTemp_toInt]
  exact finishOrOverflow_spec rt _ s

/-! ### Bitwise operations (R162 to R164) -/

theorem zeroExtImm_getLsbD_low (imm : Half) {k : Nat} (hk : k < 16) :
    (zeroExtImm imm).getLsbD k = imm.getLsbD k := by
  have hword : k < 32 := by omega
  simp [zeroExtImm, hword]

theorem zeroExtImm_getLsbD_high (imm : Half) {k : Nat} (hk : 16 ≤ k) : (zeroExtImm imm).getLsbD k = false := by
  rw [zeroExtImm, BitVec.getLsbD_setWidth, BitVec.getLsbD_of_ge imm k hk, Bool.and_false]

/-- Settles O7: the word operations act on each bit, and from bit 16 up the immediate's bits are zeros. -/
theorem logicWithZeroExtendedImmediate : Obligations.LogicWithZeroExtendedImmediate := by
  refine ⟨encodedAs_andi, encodedAs_ori, encodedAs_xori, fun rt rs imm s => ⟨?_, ?_, ?_⟩⟩
  · refine ⟨_, fun k hk => ?_, fun k hk => ?_, finishReg_spec rt _ s⟩
    · rw [BitVec.getLsbD_and, zeroExtImm_getLsbD_low imm hk]
    · rw [BitVec.getLsbD_and, zeroExtImm_getLsbD_high imm hk, Bool.and_false]
  · refine ⟨_, fun k hk => ?_, fun k hk => ?_, finishReg_spec rt _ s⟩
    · rw [BitVec.getLsbD_or, zeroExtImm_getLsbD_low imm hk]
    · rw [BitVec.getLsbD_or, zeroExtImm_getLsbD_high imm hk, Bool.or_false]
  · refine ⟨_, fun k hk => ?_, fun k hk => ?_, finishReg_spec rt _ s⟩
    · rw [BitVec.getLsbD_xor, zeroExtImm_getLsbD_low imm hk]
    · rw [BitVec.getLsbD_xor, zeroExtImm_getLsbD_high imm hk, Bool.xor_false]

/-! ### The upper immediate (R165) -/

/-- Sixteen zero bits after the immediate multiply it by 2^16. -/
theorem upperImm_toNat (imm : Half) : (upperImm imm).toNat = imm.toNat * 65536 := by
  rw [upperImm, BitVec.toNat_append, BitVec.toNat_ofNat, Nat.zero_mod, Nat.or_zero, Nat.shiftLeft_eq]

/-- Settles O8: the upper immediate is the product. -/
theorem luiPlacesImmediateHigh : Obligations.LuiPlacesImmediateHigh :=
  ⟨encodedAs_lui, fun rt imm s => ⟨_, upperImm_toNat imm, finishReg_spec rt _ s⟩⟩

/-! ### Comparisons (R166, R167) -/

theorem signExtImm_toInt (imm : Half) : (signExtImm imm).toInt = imm.toInt :=
  BitVec.toInt_signExtend_of_le (by decide)

/-- The sign-extended immediate read as unsigned: a set sign bit adds the 2^32 - 2^16 of the copied bits. -/
theorem signExtImm_toNat (imm : Half) :
    (signExtImm imm).toNat = if imm.toNat < 32768 then imm.toNat else imm.toNat + 4294901760 := by
  have hlt := imm.isLt
  have hmod := toNat_signExtImm imm
  rw [BitVec.toInt_eq_toNat_cond] at hmod
  split
  next hpos =>
    rw [if_pos (by omega)] at hmod
    omega
  next hneg =>
    rw [if_neg (by omega)] at hmod
    omega

/-- Settles O10: the tests compare with the sign-extended immediate, read as signed and as unsigned. -/
theorem setOnLessThanImmediate : Obligations.SetOnLessThanImmediate := by
  refine ⟨encodedAs_slti, encodedAs_sltiu, fun rt rs imm s => ⟨?_, ?_⟩⟩
  · rw [← signExtImm_toInt, ← setWord_decide]
    exact finishReg_spec rt _ s
  · rw [← signExtImm_toNat, ← setWord_decide]
    exact finishReg_spec rt _ s

end Sys2Proof.Machine
end

section
/-! PROOFS of the family 44_branch.md. A branch reads its condition as a test and its offset as a bit string, and
`branch_spec` says what it writes. So two facts remain: two zero bits after the offset multiply it by 4, which makes
the target that of R88 read as a sum modulo 2^32, and each instruction's test holds exactly when its condition does. -/

namespace Sys2Proof.Machine

/-! ### The target (R25, R88) -/

/-- Two zero bits after the offset multiply the signed offset by 4. -/
theorem shiftedOffset_toInt (offset : Half) : (offset ++ 0#2).toInt = 4 * offset.toInt := by
  have hlt := offset.isLt
  have happend : (offset ++ 0#2).toNat = offset.toNat * 4 := by
    rw [BitVec.toNat_append, BitVec.toNat_ofNat, Nat.zero_mod, Nat.or_zero, Nat.shiftLeft_eq]
  rw [BitVec.toInt_eq_toNat_cond, BitVec.toInt_eq_toNat_cond, happend]
  split <;> split <;> omega

theorem branchTarget_eq_add_ofInt (pc : Word) (offset : Half) :
    branchTarget pc offset = pc + 4#32 + BitVec.ofInt 32 (4 * offset.toInt) := by
  rw [branchTarget, BitVec.signExtend, shiftedOffset_toInt]

/-! ### The conditions (R170 to R175) -/

/-- A branch whose test decides `p` goes to its target where `p` holds, and changes nothing but `pc`. -/
theorem branch_spec_of_iff {taken : Bool} {p : Prop} [Decidable p] (htaken : taken = true ↔ p) (offset : Half)
    (s : State) :
    ∃ t, branch taken offset s = .next t ∧
      WritesPc (if p then s.pc + 4#32 + BitVec.ofInt 32 (4 * offset.toInt) else s.pc + 4#32) s t := by
  have hspec := branch_spec taken offset s
  simpa only [branchTarget_eq_add_ofInt, htaken] using hspec

/-- Settles O22: the test of BEQ is equality, that of BNE its negation, which exchanges the two outcomes. -/
theorem branchesOnEquality : Obligations.BranchesOnEquality := by
  refine ⟨encodedAs_beq, encodedAs_bne, fun rs rt offset s => ⟨?_, ?_⟩⟩
  · exact branch_spec_of_iff beq_iff_eq offset s
  · have hne := branch_spec_of_iff (bne_iff_ne (a := s.readReg rs) (b := s.readReg rt)) offset s
    rwa [ite_not] at hne

/-- Settles O23: the tests are the comparisons of the signed reading with 0. -/
theorem branchesOnSign : Obligations.BranchesOnSign := by
  refine ⟨encodedAs_blez, encodedAs_bgtz, encodedAs_bltz, encodedAs_bgez, fun rs offset s => ⟨?_, ?_, ?_, ?_⟩⟩
  · exact branch_spec_of_iff decide_eq_true_iff offset s
  · exact branch_spec_of_iff decide_eq_true_iff offset s
  · exact branch_spec_of_iff decide_eq_true_iff offset s
  · exact branch_spec_of_iff decide_eq_true_iff offset s

end Sys2Proof.Machine
end

section
/-! PROOFS of the family 45_jump.md. What a jump writes is what `setPc_spec` says of J and JR, and `link_spec` of JAL
and JALR. So one fact remains: `JumpAddr` is put together from three bit strings, and read as a number it is the start
of the 256 MiB region of `pc + 4` plus 4 times the index. -/

namespace Sys2Proof.Machine

/-! ### The target of J and JAL (R180, decision D22) -/

/-- Bits put after others shift those up: concatenation as arithmetic. -/
theorem append_toNat_eq_mul_add {m n : Nat} (x : BitVec m) (y : BitVec n) :
    (x ++ y).toNat = x.toNat * 2 ^ n + y.toNat := by
  rw [BitVec.toNat_append, ← Nat.shiftLeft_add_eq_or_of_lt y.isLt, Nat.shiftLeft_eq]

/-- Bits 31..28 of an address are the number of its 256 MiB region. -/
theorem region_toNat (addr : Word) : (addr.extractLsb' 28 4).toNat = addr.toNat / 268435456 := by
  have hlt := addr.isLt
  rw [BitVec.extractLsb'_toNat, Nat.shiftRight_eq_div_pow]
  omega

theorem jumpAddr_toNat (pc : Word) (index : BitVec 26) :
    (jumpAddr pc index).toNat = (pc + 4#32).toNat / 268435456 * 268435456 + index.toNat * 4 :=
  calc (jumpAddr pc index).toNat
    _ = ((pc + 4#32).toNat / 268435456 * 2 ^ 26 + index.toNat) * 2 ^ 2 + (0#2).toNat := by
        rw [jumpAddr, append_toNat_eq_mul_add, append_toNat_eq_mul_add, region_toNat]
    _ = (pc + 4#32).toNat / 268435456 * 268435456 + index.toNat * 4 := by
        rw [BitVec.toNat_ofNat]
        omega

/-! ### What the jumps write (R180 to R183) -/

/-- Settles O24: J sets `pc` to `JumpAddr`, JAL links besides, and `JumpAddr` is the number claimed. -/
theorem jumpsWithinRegion : Obligations.JumpsWithinRegion :=
  ⟨encodedAs_j, encodedAs_jal, fun index s =>
    ⟨jumpAddr s.pc index, jumpAddr_toNat s.pc index, ⟨_, rfl, setPc_spec _ s⟩, ⟨_, rfl, link_spec 31#5 _ s⟩⟩⟩

/-- Settles O25: JR sets `pc` to the register's value, with no test of it. -/
theorem jumpRegisterCopiesAnyValue : Obligations.JumpRegisterCopiesAnyValue :=
  ⟨encodedAs_jr, fun rs s => ⟨_, rfl, setPc_spec (s.readReg rs) s⟩⟩

/-- Settles O26: the target is read in the state before the link is written, so it may be the link register. -/
theorem jumpAndLinkRegisterReadsFirst : Obligations.JumpAndLinkRegisterReadsFirst :=
  ⟨encodedAs_jalr, fun rd rs s => ⟨_, rfl, link_spec rd (s.readReg rs) s⟩⟩

end Sys2Proof.Machine
end

section
/-! PROOFS of the family 46_move.md. The words are those of the rows of MFHI, MFLO, MTHI and MTLO. What each move
writes is what `finishReg_spec` and `finishHiLo_spec` say of every instruction that ends that way, put together per
instruction in the lemmas `execMfhi_completes` to `execMtlo_completes`. -/

namespace Sys2Proof.Machine

/-! ### From HI and LO (R190, R191) -/

/-- Settles O27: MFHI and MFLO end in the write of one register, register 0 among them, with HI or LO. -/
theorem moveFromHiAndLo : Obligations.MoveFromHiAndLo :=
  ⟨encodedAs_mfhi, encodedAs_mflo, fun rd s => ⟨execMfhi_completes rd s, execMflo_completes rd s⟩⟩

/-! ### To HI and LO (R192, R193) -/

/-- Settles O28: MTHI and MTLO end in the write of the pair, whose other half is the value it had. -/
theorem moveToHiAndLo : Obligations.MoveToHiAndLo :=
  ⟨encodedAs_mthi, encodedAs_mtlo, fun rs s => ⟨execMthi_completes rs s, execMtlo_completes rs s⟩⟩

end Sys2Proof.Machine
end

section
/-! PROOFS of the family 47_privileged.md+48_trap.md+60_exceptions.md+70_reset_and_hazards.md. The effect that an
instruction chooses tells what CP0 has to do with it: only MFC0 and ERET choose theirs by a CP0 value, and an effect
enters an exception exactly where the table of R220 gives one. What an entry and a return write under M32 is read
cell by cell and bit by bit. Runs are followed by induction on the number of steps, and what the next instruction finds
is the composition of two completions. -/

namespace Sys2Proof.Machine

/-! ### The moves to and from CP0 (R201, R202) -/

theorem execMfc0_completes (rt rd : Reg) (s : State) : Completes (.mfc0 rt rd) s (WritesReg rt (s.readCp0 rd) s) :=
  finishReg_spec rt (s.readCp0 rd) s

theorem execMtc0_completes (rt rd : Reg) (s : State) : Completes (.mtc0 rt rd) s (WritesCp0 rd (s.readReg rt) s) :=
  ⟨_, rfl, writeCp0_spec rd (s.readReg rt) s⟩

/-- Settles O29: MFC0 ends in the write of one general register, MTC0 in the write of one CP0 cell. -/
theorem moveToAndFromCp0 : Obligations.MoveToAndFromCp0 :=
  ⟨encodedAs_mfc0, encodedAs_mtc0, fun rt rd s => ⟨execMfc0_completes rt rd s, execMtc0_completes rt rd s⟩⟩

/-! ### Fields of a CP0 cell (R225, R228, R230) -/

/-- A bit of a word one of whose fields has been replaced: the field's own bit inside it, the old bit outside. -/
theorem putField_getLsbD {n lo k : Nat} (w : Word) (v : BitVec n) (hn : lo + n ≤ 32) (hk : k < 32) :
    (putField w lo v).getLsbD k = if lo ≤ k ∧ k < lo + n then v.getLsbD (k - lo) else w.getLsbD k := by
  rw [putField, BitVec.getLsbD_or, BitVec.getLsbD_and, BitVec.getLsbD_not, BitVec.getLsbD_shiftLeft,
    BitVec.getLsbD_shiftLeft, BitVec.getLsbD_setWidth, BitVec.getLsbD_setWidth, BitVec.getLsbD_allOnes]
  split
  next hin =>
    have hfield : ¬ k < lo ∧ k - lo < 32 ∧ k - lo < n := by omega
    simp [hfield, hk]
  next hout =>
    by_cases hlo : k < lo
    · simp [hlo, hk]
    · have habove : ¬ k - lo < n := by omega
      simp [hlo, hk, habove, BitVec.getLsbD_of_ge v _ (not_lt.1 habove)]

/-! ### The return from an exception (R200, R230) -/

theorem execEret_completes (s : State) : Completes .eret s (Returns s) :=
  ⟨_, rfl, exceptionReturn_spec s⟩

/-- M32 clears a bit of cell 12, which is kept where it is EPC. -/
theorem cp0OnReturn_m32 {cfg : Config} (hp : cfg.cp0Policy = .m32) (f : Cp0File) (c : Reg) :
    cp0Cell (cp0OnReturn cfg f) c =
      if c = 12#5 ∧ c ≠ cfg.epcIdx then putField (cp0Cell f 12#5) 1 0#1 else cp0Cell f c := by
  simp only [cp0OnReturn, hp, m32OnReturn, cp0Cell_cp0Put]
  by_cases hc : c = cfg.epcIdx
  · rw [if_pos hc, if_neg fun h => h.2 hc, hc]
  · simp [hc]

/-- The identity policy puts EPC back where it stands. -/
theorem cp0OnReturn_identity {cfg : Config} (hp : cfg.cp0Policy = .identity) (f : Cp0File) (c : Reg) :
    cp0Cell (cp0OnReturn cfg f) c = cp0Cell f c := by
  simp only [cp0OnReturn, hp, cp0Cell_cp0Put]
  split
  next hc => rw [hc]
  next => rfl

/-- Settles O30: ERET is the return, and under each named policy the return's processing is known cell by cell. -/
theorem eretReturnsToEpc : Obligations.EretReturnsToEpc := by
  refine ⟨encodedAs_eret, fun s => (execEret_completes s).mono fun t ht => ⟨ht, fun hp hidx => ?_, fun hp c => ?_⟩⟩
  · obtain ⟨-, -, hcells, -⟩ := ht
    refine ⟨fun k hk => ?_, fun c hc => ?_⟩
    · rw [hcells, cp0OnReturn_m32 hp, if_pos ⟨rfl, hidx.symm⟩, putField_getLsbD _ _ (by decide) hk]
      by_cases hexl : k = 1
      · subst hexl
        rfl
      · rw [if_neg (by omega), decide_eq_true hexl, Bool.true_and, State.readCp0]
    · rw [hcells, cp0OnReturn_m32 hp, if_neg fun h => hc h.1]
      rfl
  · obtain ⟨-, -, hcells, -⟩ := ht
    rw [hcells, cp0OnReturn_identity hp]
    rfl

/-! ### BREAK and SYSCALL (R210, R211) -/

theorem execBrk_completes (code : BitVec 20) (s : State) :
    Completes (.brk code) s (Enters .breakpoint (s.pc + 4#32) s) :=
  ⟨_, rfl, raise_spec .breakpoint s⟩

theorem execSyscall_completes (code : BitVec 20) (s : State) :
    Completes (.syscall code) s (Enters .syscall (s.pc + 4#32) s) :=
  ⟨_, rfl, raise_spec .syscall s⟩

/-- Settles O31: BREAK is the entry into Breakpoint, whose EPC is `pc + 4`. -/
theorem breakEntersBreakpoint : Obligations.BreakEntersBreakpoint := ⟨encodedAs_brk, execBrk_completes⟩

/-- Settles O32: SYSCALL is the entry into Syscall, whose EPC is `pc + 4`. -/
theorem syscallEntersSyscall : Obligations.SyscallEntersSyscall := ⟨encodedAs_syscall, execSyscall_completes⟩

/-- Settles O41: each word is evaluated by the decoder. -/
theorem sampleWordsDecodeAsPrinted : Obligations.SampleWordsDecodeAsPrinted :=
  ⟨rfl, rfl, rfl, rfl, rfl, rfl, rfl, rfl, rfl⟩

/-! ### CP0 steers nothing else (R31, R228, R238) -/

theorem readsSame_setCp0 {i : Instr} {s : State} {f : Cp0File} (hi : ∀ rt rd, i ≠ .mfc0 rt rd)
    (hepc : i = .eret → (s.setCp0 f).epc = s.epc) : ReadsSame i s (s.setCp0 f) where
  regs _ _ := rfl
  pc := rfl
  hi _ _ := rfl
  lo _ _ := rfl
  data _ _ := rfl
  cp0 rt rd e := absurd e (hi rt rd)
  epc := hepc

/-- Apart from the CP0 file, an update does not depend on it. -/
theorem Effect.update_setCp0 (e : Effect) (s : State) (f : Cp0File) :
    (e.update (s.setCp0 f)).setCp0 (e.update s).cp0 = e.update s := by
  cases e with
  | load => simp only [Effect.update, State.afterRead_eq]; rfl
  | _ => rfl

/-- Settles O52: with another CP0 file an instruction chooses the same effect, with the same outcome outside CP0. -/
theorem cp0DoesNotSteerExecution : Obligations.Cp0DoesNotSteerExecution := by
  intro i s f hi hepc
  have he : effectOf i (s.setCp0 f) = effectOf i s := effectOf_congr (readsSame_setCp0 hi hepc)
  rw [exec_eq_apply i s, exec_eq_apply i (s.setCp0 f), he]
  exact Effect.agreeBut_apply rfl (Effect.update_setCp0 _ s f)

/-! ### Exception entry (R225 to R228) -/

/-- Settles O33: the entry saves `EpcValue`, which the exception and the offset parameter choose. -/
theorem exceptionEntrySavesPcAndVectors : Obligations.ExceptionEntrySavesPcAndVectors := by
  intro e s
  have hentry := raise_spec e s
  cases e with
  | breakpoint | syscall => exact hentry
  | integerOverflow | addressError =>
    cases hoffset : s.cfg.faultEpcOffset <;> simpa [epcValue, faultOffset, hoffset] using hentry

theorem m32OnEntry_cause (f : Cp0File) (e : Exc) :
    cp0Cell (m32OnEntry f e) 13#5 = putField (putField (cp0Cell f 13#5) 2 (excCode e)) 31 0#1 := by
  cases e <;> simp [m32OnEntry, cp0Cell_cp0Put]

theorem m32OnEntry_status (f : Cp0File) (e : Exc) :
    cp0Cell (m32OnEntry f e) 12#5 = putField (cp0Cell f 12#5) 1 1#1 := by
  cases e <;> simp [m32OnEntry, cp0Cell_cp0Put]

theorem m32OnEntry_other (f : Cp0File) (e : Exc) {c : Reg} (hcause : c ≠ 13#5) (hstatus : c ≠ 12#5)
    (haddr : c ≠ 8#5) : cp0Cell (m32OnEntry f e) c = cp0Cell f c := by
  cases e <;> simp [m32OnEntry, cp0Cell_cp0Put, hcause, hstatus, haddr]

/-- The cells other than EPC after an entry under M32. -/
theorem raise_readCp0_m32 {s : State} (hp : s.cfg.cp0Policy = .m32) (e : Exc) {c : Reg} (hc : c ≠ s.cfg.epcIdx) :
    (raise e s).readCp0 c = cp0Cell (m32OnEntry s.cp0 e) c := by
  rw [raise_readCp0, if_neg hc, cp0OnEntry, hp]

/-- Settles O34: the entry's processing is known cell by cell, and in the cells 13 and 12 it replaces fields. -/
theorem m32EntryRecordsCause : Obligations.M32EntryRecordsCause := by
  intro e s hp t code
  have hcode : (excCode e).toNat = code := by
    cases e with
    | addressError kind => cases kind <;> rfl
    | _ => rfl
  refine ⟨fun hidx k hk => ?_, fun hidx k hk => ?_, fun hidx => ?_, fun c hidx hcause hstatus haddr => ?_⟩
  · rw [raise_readCp0_m32 hp e hidx.symm, m32OnEntry_cause, putField_getLsbD _ _ (by decide) hk,
      putField_getLsbD _ _ (by decide) hk]
    by_cases hfield : 2 ≤ k ∧ k ≤ 6
    · rw [if_neg (by omega), if_pos (by omega), if_pos hfield, BitVec.getLsbD, hcode]
    · by_cases hbd : k = 31
      · subst hbd
        rfl
      · rw [if_neg (by omega), if_neg (by omega), if_neg hfield, if_neg hbd, State.readCp0]
  · rw [raise_readCp0_m32 hp e hidx.symm, m32OnEntry_status, putField_getLsbD _ _ (by decide) hk]
    by_cases hexl : k = 1
    · subst hexl
      rfl
    · rw [if_neg (by omega), if_neg hexl, State.readCp0]
  · rw [raise_readCp0_m32 hp e hidx.symm]
    cases e <;> simp [m32OnEntry, cp0Cell_cp0Put, State.readCp0]
  · rw [raise_readCp0_m32 hp e hidx, m32OnEntry_other _ _ hcause hstatus haddr]
    rfl

/-! ### The table of exceptions (R220) -/

/-- The exception that an effect enters, if it enters one. -/
def Effect.raised : Effect → Option Exc
  | .raise e => some e
  | _ => none

/-- The effects that change CP0 without an exception. -/
def Effect.movesCp0 : Effect → Bool
  | .cp0 _ _ | .ret _ => true
  | _ => false

theorem Effect.apply_of_raised {e : Effect} {x : Exc} (h : e.raised = some x) (s : State) :
    e.apply s = .next (Machine.raise x s) := by
  cases e with
  | raise =>
    cases h
    rfl
  | _ => cases h

theorem Effect.update_cp0 {e : Effect} (s : State) (hr : e.raised = none) (hm : e.movesCp0 = false) :
    (e.update s).cp0 = s.cp0 := by
  cases e with
  | raise => cases hr
  | cp0 | ret => cases hm
  | _ => simp [Effect.update]

/-- The overflow test asks whether the exact result is a signed 32-bit number (R150, R221). -/
theorem Effect.regOrOverflow_raised (rd : Reg) (temp : BitVec 33) :
    (Effect.regOrOverflow rd temp).raised = raisedBy.outside temp.toInt := by
  have hiff := overflowed_iff temp
  unfold Effect.regOrOverflow raisedBy.outside
  split
  next ho =>
    have hout := hiff.1 ho
    rw [if_neg (by omega)]
    rfl
  next hno =>
    have hfits := mt hiff.2 hno
    rw [if_pos (by omega)]
    rfl

/-- The alignment test asks whether the address is a multiple of the size of the access (R54, R222). -/
theorem Effect.onAligned_raised {aligned : Bool} {size : Nat} {kind : AccessKind} {addr : Word} {e : Effect}
    (ha : aligned = true ↔ addr.toNat % size = 0) (he : e.raised = none) :
    (Effect.onAligned aligned kind addr e).raised = raisedBy.unaligned size kind addr := by
  unfold Effect.onAligned raisedBy.unaligned
  simp only [← ha]
  split
  exacts [he, rfl]

/-- The effects that enter an exception are those for which the table gives one, and the exception is the table's. -/
theorem effectOf_raised (i : Instr) (s : State) : (effectOf i s).raised = raisedBy i s := by
  cases i with
  | add => rw [raisedBy, ← addTemp_toInt]; exact Effect.regOrOverflow_raised _ _
  | sub => rw [raisedBy, ← subTemp_toInt]; exact Effect.regOrOverflow_raised _ _
  | addi => rw [raisedBy, ← addImmTemp_toInt]; exact Effect.regOrOverflow_raised _ _
  | lh | lhu | sh => exact Effect.onAligned_raised (aligned2_iff _) rfl
  | lw | sw => exact Effect.onAligned_raised (aligned4_iff _) rfl
  | _ => rfl

theorem effectOf_movesCp0 {i : Instr} (hm : ∀ rt rd, i ≠ .mtc0 rt rd) (he : i ≠ .eret) (s : State) :
    (effectOf i s).movesCp0 = false := by
  cases i with
  | add | sub | addi => exact Effect.regOrOverflow_induction (P := fun e => e.movesCp0 = false) rfl rfl
  | lh | lhu | lw | sh | sw => exact Effect.onAligned_induction (P := fun e => e.movesCp0 = false) rfl fun _ => rfl
  | mtc0 rt rd => exact absurd rfl (hm rt rd)
  | eret => exact absurd rfl he
  | _ => rfl

/-- Settles O35: an effect that the table lists is the entry, and the others leave CP0 but for MTC0 and ERET. -/
theorem exceptionsAreThoseOfTheTable : Obligations.ExceptionsAreThoseOfTheTable := by
  intro i s
  have hraised := effectOf_raised i s
  split
  next e htable =>
    rw [exec_eq_apply]
    exact Effect.apply_of_raised (hraised.trans htable) s
  next htable =>
    intro t ht hm he
    obtain ⟨-, rfl⟩ := exec_next ht
    exact Effect.update_cp0 s (hraised.trans htable) (effectOf_movesCp0 hm he s)

/-! ### Reset (R35, R260, R261) -/

/-- Settles O44: the fields of the reset state, and a memory with nothing written reads as no byte. -/
theorem resetSetsPcOnly : Obligations.ResetSetsPcOnly := by
  refine ⟨fun cfg => ⟨rfl, rfl, rfl⟩, fun cfg s ⟨_, hpc, hdmem⟩ => ⟨hpc, readReg_zero s, fun a => ?_⟩, rfl, rfl⟩
  rw [hdmem, Memory.read]

/-! ### Runs (R270) -/

theorem exec_ne_refused (i : Instr) (s : State) (r : Refusal) : exec i s ≠ .refused r := by
  rw [exec_eq_apply, Effect.apply]
  split <;> nofun

theorem step_ne_refused (s : State) (r : Refusal) : step s ≠ .refused r := by
  unfold step
  split
  exacts [nofun, exec_ne_refused _ s r]

section
variable {halt : State → Bool} {s : State}

theorem runTo_of_halt (h : halt s = true) (n : Nat) : runTo halt n s = .completed s := by
  cases n <;> rw [runTo, if_pos h]

theorem runTo_zero (h : halt s = false) : runTo halt 0 s = .running s := by
  rw [runTo, h]
  rfl

theorem runTo_succ_of_fault {f : Fault} (h : halt s = false) (hs : step s = .fault f) (n : Nat) :
    runTo halt (n + 1) s = .faulted f := by
  rw [runTo, h, hs]
  rfl

theorem runTo_succ_of_next {t : State} (h : halt s = false) (hs : step s = .next t) (n : Nat) :
    runTo halt (n + 1) s = runTo halt n t := by
  rw [runTo, h, hs]
  rfl

end

/-- One induction for runs: to show `P` of the number of steps and the state, show it where HALT holds, where no step is
left, after a step that faults, and after a step to a state of which it holds with one step fewer. -/
theorem runTo_induction {halt : State → Bool} {P : Nat → State → Prop}
    (halted : ∀ n s, halt s = true → P n s) (out : ∀ s, halt s = false → P 0 s)
    (fault : ∀ n s f, halt s = false → step s = .fault f → P (n + 1) s)
    (next : ∀ n s t, halt s = false → step s = .next t → P n t → P (n + 1) s) (n : Nat) (s : State) : P n s := by
  induction n generalizing s with
  | zero =>
    cases h : halt s with
    | true => exact halted 0 s h
    | false => exact out s h
  | succ n ih =>
    cases h : halt s with
    | true => exact halted (n + 1) s h
    | false =>
      cases hs : step s with
      | next t => exact next n s t h hs (ih t)
      | fault f => exact fault n s f h hs
      | refused r => exact absurd hs (step_ne_refused s r)

theorem runTo_ne_refused (halt : State → Bool) (n : Nat) (s : State) (r : Refusal) :
    runTo halt n s ≠ .refused r := by
  induction n, s using runTo_induction (halt := halt) with
  | halted n s h => rw [runTo_of_halt h]; nofun
  | out s h => rw [runTo_zero h]; nofun
  | fault n s f h hs => rw [runTo_succ_of_fault h hs]; nofun
  | next n s t h hs ih => rwa [runTo_succ_of_next h hs]

/-- HALT holds in the final state of a completed run. -/
theorem halt_of_runTo_completed {halt : State → Bool} {n : Nat} {s t : State} (h : runTo halt n s = .completed t) :
    halt t = true := by
  induction n, s using runTo_induction (halt := halt) with
  | halted n s hh =>
    rw [runTo_of_halt hh] at h
    cases h
    exact hh
  | out s hh =>
    rw [runTo_zero hh] at h
    cases h
  | fault n s f hh hs =>
    rw [runTo_succ_of_fault hh hs] at h
    cases h
  | next n s u hh hs ih =>
    rw [runTo_succ_of_next hh hs] at h
    exact ih h

/-- A run that has ended has the same end at every larger bound. -/
theorem runTo_of_le {halt : State → Bool} {n m : Nat} {s : State} {r : RunEnd} (hnm : n ≤ m)
    (h : runTo halt n s = r) (hr : ∀ t, r ≠ .running t) : runTo halt m s = r := by
  induction n, s using runTo_induction (halt := halt) generalizing m with
  | halted n s hh =>
    rw [runTo_of_halt hh] at h ⊢
    exact h
  | out s hh =>
    rw [runTo_zero hh] at h
    exact absurd h.symm (hr s)
  | fault n s f hh hs =>
    obtain ⟨k, rfl⟩ := Nat.exists_eq_add_of_le' hnm
    rw [runTo_succ_of_fault hh hs] at h
    rw [← Nat.add_assoc, runTo_succ_of_fault hh hs, h]
  | next n s t hh hs ih =>
    obtain ⟨k, rfl⟩ := Nat.exists_eq_add_of_le' hnm
    rw [runTo_succ_of_next hh hs] at h
    rw [← Nat.add_assoc, runTo_succ_of_next hh hs]
    exact ih (by omega) h

/-- A run has one end, whatever the bounds at which it is found. -/
theorem runTo_end_unique {halt : State → Bool} {n m : Nat} {s : State} {r q : RunEnd} (hn : runTo halt n s = r)
    (hm : runTo halt m s = q) (hr : ∀ t, r ≠ .running t) (hq : ∀ t, q ≠ .running t) : r = q := by
  obtain hle | hle := Nat.le_total n m
  · rw [← hm, runTo_of_le hle hn hr]
  · rw [← hn, runTo_of_le hle hm hq]

/-- Settles O56: the four equations of a run, and by induction on its steps that its end is final and no refusal. -/
theorem runsEndAtHaltOrFault : Obligations.RunsEndAtHaltOrFault := by
  intro halt s
  refine ⟨runTo_of_halt, runTo_zero, fun h f hs n => runTo_succ_of_fault h hs n,
    fun h t hs n => runTo_succ_of_next h hs n, fun n r => runTo_ne_refused halt n s r, fun n m t hnm h => ?_,
    fun n m f hnm h => runTo_of_le hnm h nofun, fun n m f t hf ht => ?_⟩
  · exact ⟨runTo_of_le hnm h nofun, halt_of_runTo_completed h⟩
  · exact absurd (runTo_end_unique hf ht nofun nofun) nofun

/-! ### What the next instruction finds (R266 to R268) -/

/-- A destination other than `x[0]` shows the value written. -/
theorem WritesReg.readReg {rd : Reg} {v : Word} {s t : State} (h : WritesReg rd v s t) (hrd : rd ≠ 0#5) :
    t.readReg rd = v := by
  obtain ⟨hv, -⟩ := h
  rw [hv, if_neg hrd]

section
variable {i : Instr} {rd : Reg} {s : State}

/-- Directly after an instruction that leaves `h` in HI and `l` in LO, the moves give `h` and `l` (R267). -/
theorem nextReadsHiLo_of_writesHiLo {h l : Word} (hi : Completes i s (WritesHiLo h l s)) (hrd : rd ≠ 0#5) :
    NextReadsHiLo i rd h l s := by
  constructor
  · exact hi.mono fun t ⟨hhi, _⟩ => (execMfhi_completes rd t).mono fun u hu => (hu.readReg hrd).trans hhi
  · exact hi.mono fun t ⟨_, hlo, _⟩ => (execMflo_completes rd t).mono fun u hu => (hu.readReg hrd).trans hlo

/-- ADDU with register 0, directly after a load, moves the loaded value (R266). -/
theorem nextReads_addu_of_loads {rt : Reg} {addr : Word} {n : Nat} {v : Word} (hi : Completes i s (Loads rt addr n v s))
    (hrt : rt ≠ 0#5) (hrd : rd ≠ 0#5) : NextReads i (.addu rd rt 0#5) rd v s := by
  refine hi.mono fun t ht => ?_
  obtain ⟨u, hu, hwrites⟩ := finishReg_spec rd (t.readReg rt + t.readReg 0#5) t
  have hsum := hwrites.readReg hrd
  rw [ht.readReg hrt, readReg_zero, BitVec.add_zero] at hsum
  exact ⟨u, hu, hsum⟩

end

/-- A writer of HI or LO completes in every state and leaves the general registers (R27). -/
theorem completes_sameGpr_of_writesHiLo {i : Instr} (hi : (writesHi i || writesLo i) = true) (s : State) :
    Completes i s (SameGpr s) := by
  rw [← effectOf_writesHi i s, ← effectOf_writesLo i s] at hi
  rw [Completes, exec_eq_apply]
  cases he : effectOf i s with
  | hiLo => exact ⟨_, rfl, fun _ => rfl⟩
  | _ => simp [he, Effect.writesHi, Effect.writesLo] at hi

/-- The truncated quotient and remainder, or the free pair (R136, R152). -/
theorem execDiv_tdiv_tmod (rs rt : Reg) (s : State) :
    ∃ h l : Word,
      (if (s.readReg rt).toInt = 0 ∨ ((s.readReg rs).toInt = -2147483648 ∧ (s.readReg rt).toInt = -1) then
        (h, l) = Config.divSpecial true (s.readReg rs) (s.readReg rt)
      else l.toInt = (s.readReg rs).toInt.tdiv (s.readReg rt).toInt ∧
        h.toInt = (s.readReg rs).toInt.tmod (s.readReg rt).toInt) ∧
      Completes (.div rs rt) s (WritesHiLo h l s) := by
  refine ⟨_, _, ?_, finishHiLo_spec _ _ s⟩
  split
  next hspecial => rw [signedDivision, if_pos hspecial]
  next h =>
    rw [signedDivision_eq h]
    exact ⟨sdiv_toInt (not_or.1 h).2, BitVec.toInt_srem _ _⟩

/-- The unsigned quotient and remainder, or the free pair (R137, R152). -/
theorem execDivu_div_mod (rs rt : Reg) (s : State) :
    ∃ h l : Word,
      (if (s.readReg rt).toNat = 0 then (h, l) = Config.divSpecial false (s.readReg rs) (s.readReg rt)
      else l.toNat = (s.readReg rs).toNat / (s.readReg rt).toNat ∧
        h.toNat = (s.readReg rs).toNat % (s.readReg rt).toNat) ∧
      Completes (.divu rs rt) s (WritesHiLo h l s) := by
  refine ⟨_, _, ?_, finishHiLo_spec _ _ s⟩
  split
  next hzero => rw [unsignedDivision, if_pos hzero]
  next hb =>
    rw [unsignedDivision_eq hb]
    exact ⟨BitVec.toNat_udiv, BitVec.toNat_umod⟩

theorem eret_completes_of_epc {v : Word} {t : State} (h : t.epc = v) : Completes .eret t fun u => u.pc = v :=
  (execEret_completes t).mono fun _ ⟨hpc, _⟩ => hpc.trans h

theorem mfc0_completes_of_cell {c rd : Reg} {v : Word} {t : State} (h : t.readCp0 c = v) (hrd : rd ≠ 0#5) :
    Completes (.mfc0 rd c) t fun u => u.readReg rd = v :=
  (execMfc0_completes rd c t).mono fun _ hu => (hu.readReg hrd).trans h

theorem WritesCp0.epc {v : Word} {s t : State} (h : WritesCp0 s.cfg.epcIdx v s t) : t.epc = v := by
  obtain ⟨hcell, -, -, -, -, -, hcfg, -⟩ := h
  rw [State.epc, hcfg, hcell]

theorem raise_epc (e : Exc) (s : State) : (raise e s).epc = epcValue s.cfg e s.pc := by
  obtain ⟨hepc, -⟩ := raise_spec e s
  exact hepc

/-- Settles O57: what the first instruction is known to write is what the second is known to read. -/
theorem resultsAreVisibleToTheNextInstruction : Obligations.ResultsAreVisibleToTheNextInstruction := by
  refine ⟨fun rs rt rd s hrd => ?_, fun i rd s hrd hi => ?_, fun rt cell rd s hrd => ?_, fun rt s => ?_,
    fun e rd s hrd => ?_, fun code s => ?_, fun rt base rd offset s hrt hrd => ?_⟩
  · obtain ⟨-, -, hmult, hmultu, -⟩ := multiplyGivesFullProduct
    obtain ⟨mh, ml, hm, hmc⟩ := hmult rs rt s
    obtain ⟨uh, ul, hu, huc⟩ := hmultu rs rt s
    obtain ⟨dh, dl, hd, hdc⟩ := execDiv_tdiv_tmod rs rt s
    obtain ⟨vh, vl, hv, hvc⟩ := execDivu_div_mod rs rt s
    exact ⟨nextReadsHiLo_of_writesHiLo (execMthi_completes rs s) hrd,
      nextReadsHiLo_of_writesHiLo (execMtlo_completes rs s) hrd,
      ⟨mh, ml, hm, nextReadsHiLo_of_writesHiLo hmc hrd⟩, ⟨uh, ul, hu, nextReadsHiLo_of_writesHiLo huc hrd⟩,
      ⟨dh, dl, hd, nextReadsHiLo_of_writesHiLo hdc hrd⟩, ⟨vh, vl, hv, nextReadsHiLo_of_writesHiLo hvc hrd⟩⟩
  · constructor
    · exact (execMfhi_completes rd s).mono fun t ht =>
        (completes_sameGpr_of_writesHiLo hi t).mono fun u hu => (hu rd).trans (ht.readReg hrd)
    · exact (execMflo_completes rd s).mono fun t ht =>
        (completes_sameGpr_of_writesHiLo hi t).mono fun u hu => (hu rd).trans (ht.readReg hrd)
  · exact (execMtc0_completes rt cell s).mono fun t ⟨hcell, _⟩ => mfc0_completes_of_cell hcell hrd
  · exact (execMtc0_completes rt s.cfg.epcIdx s).mono fun t ht => eret_completes_of_epc ht.epc
  · exact ⟨mfc0_completes_of_cell (raise_epc e s) hrd, eret_completes_of_epc (raise_epc e s)⟩
  · exact ⟨(execBrk_completes code s).mono fun t ⟨hepc, _⟩ => eret_completes_of_epc hepc,
      (execSyscall_completes code s).mono fun t ⟨hepc, _⟩ => eret_completes_of_epc hepc⟩
  · intro addr b h hm
    have hb : s.readData8 addr = b := readData8_eq_lane s addr
    rw [← hb]
    refine ⟨nextReads_addu_of_loads (execLb_mapped hm rt) hrt hrd,
      nextReads_addu_of_loads (execLbu_mapped hm rt) hrt hrd, fun heven => ?_, fun ha => ?_⟩
    · have hh : s.readData16 addr = h := readData16_eq_lane s heven
      rw [← hh]
      exact ⟨nextReads_addu_of_loads (execLh_mapped heven hm rt) hrt hrd,
        nextReads_addu_of_loads (execLhu_mapped heven hm rt) hrt hrd⟩
    · rw [← readData32_eq_memword s ha]
      exact nextReads_addu_of_loads (execLw_mapped ha hm rt) hrt hrd

end Sys2Proof.Machine
end
